-- ==== Sys2Proof/Word.lean ====
section
/-! DEFINITION. The plain data every other file speaks of: a byte, a byte sequence, a 2-byte
quantity, and the block's two agents (spec 00_scope.md R10, 10_state.md R20). -/

namespace Sys2Proof

/-- An unsigned integer in 0..255 (R10). -/
abbrev Byte := BitVec 8

/-- A byte sequence, also called a buffer: first byte leftmost (R10). -/
abbrev Bytes := List Byte

/-- A 2-byte quantity: a length, an index, a column word (R44). -/
abbrev Half := BitVec 16

/-- The block's two agents, each with a request port of its own (R20). -/
inductive Agent where
  /-- the encode side -/
  | tx
  /-- the decode side -/
  | rx
  deriving DecidableEq, Repr

end Sys2Proof
end

