-- ==== Sys2Proof/Machine/Constants.lean ====
section
/-! DEFINITION. The protocol constants of 00_scope.md R7 under the spec's own names, and the table of
operation codes and their agents (30_encoding.md R76). -/

namespace Sys2Proof.Machine

/-- frame start marker -/
def SOF : Byte := 0x01
/-- frame end marker -/
def EOF : Byte := 0x03
/-- first byte of an escape pair -/
def ESC_BYTE : Byte := 0x02
/-- amount added to an escaped byte -/
def ESC_OFFSET : Byte := 4
/-- bytes that must be escaped -/
def ESC_SET : Bytes := [0x01, 0x02, 0x03]
/-- size of every length and index field -/
def LEN_BYTES : Nat := 2
/-- maximum chunk bytes in one sub-packet -/
def MAX_CHUNK : Nat := 128
/-- constant first byte of a sub-packet -/
def SUBPKT_LEAD : Byte := 0x00
/-- sub-packet header bytes -/
def SUBPKT_HDR : Nat := 6
/-- raster height the packer accepts -/
def ROWS : Nat := 16
/-- brightness threshold, strict greater-than -/
def THRESHOLD : Byte := 75
/-- R, G, B -/
def CHANNELS : Nat := 3
/-- leading zero bytes of a Text payload -/
def TEXT_RESERVED : Nat := 24
/-- caption field size in bytes -/
def CAPTION_MAX : Nat := 80
/-- bytes of a Text payload before the bitmap -/
def TEXT_HDR : Nat := 107
/-- command type tag of a Text command -/
def TAG_TEXT : Byte := 2
/-- command type tag of a Mode command -/
def TAG_MODE : Byte := 6
/-- first defined mode value -/
def MODE_MIN : Byte := 1
/-- last defined mode value -/
def MODE_MAX : Byte := 8
/-- bytes of Ack fields -/
def ACK_LEN : Nat := 5
/-- Ack status meaning success -/
def STATUS_OK : Byte := 0
/-- checksum seed -/
def XSUM_SEED : Byte := 0
/-- the most a 2-byte field can say (R71) -/
def FIELD_MAX : Nat := 65535
/-- the longest inner payload: its length plus 1 must fit 2 bytes (R120) -/
def INNER_MAX : Nat := 65534
/-- the widest raster `CMD.TEXT` accepts, derived in R9 -/
def WIDTH_MAX : Nat := 10904

/-- The agent whose port accepts an operation code; none for the reserved codes 0xC..0xF (R76). -/
def opOwner (op : BitVec 4) : Option Agent :=
  match op.toNat with
  | 0x0 => some .tx
  | 0x1 => some .rx
  | 0x2 => some .tx
  | 0x3 => some .tx
  | 0x4 => some .rx
  | 0x5 => some .rx
  | 0x6 => some .tx
  | 0x7 => some .tx
  | 0x8 => some .tx
  | 0x9 => some .tx
  | 0xA => some .tx
  | 0xB => some .tx
  | _ => none

end Sys2Proof.Machine
end

