-- ==== Sys2Proof/Machine/Errors.lean ====
section
/-! DEFINITION. The error kinds of 60_exceptions.md and their codes (R200, R201). -/

namespace Sys2Proof.Machine

/-- The eleven error kinds (R201). An operation ends in `ok` or in exactly one of these. -/
inductive ErrorKind where
  /-- the escaped input ends with an introducer that has no second byte (R202) -/
  | truncatedEscape
  /-- a start or end marker is missing (R203) -/
  | invalidFraming
  /-- declared length and content length differ (R204) -/
  | lengthMismatch
  /-- an Ack's status byte is not 0 (R205) -/
  | deviceReportedError
  /-- raster height is not 16 (R206) -/
  | unsupportedHeight
  /-- more than 80 caption bytes (R207) -/
  | captionTooLong
  /-- reserved, never raised (R208) -/
  | checksumMismatch
  /-- an introducer is followed by a byte below 4 (R209) -/
  | invalidEscape
  /-- the body is too short for a field that must be read (R210) -/
  | shortBody
  /-- a length does not fit its field (R211) -/
  | fieldOverflow
  /-- reserved or misplaced operation code (R212) -/
  | illegalOp
  deriving DecidableEq, Repr

/-- The status code a response carries for an error (R201). -/
def ErrorKind.code : ErrorKind → BitVec 4
  | .truncatedEscape => 1
  | .invalidFraming => 2
  | .lengthMismatch => 3
  | .deviceReportedError => 4
  | .unsupportedHeight => 5
  | .captionTooLong => 6
  | .checksumMismatch => 7
  | .invalidEscape => 8
  | .shortBody => 9
  | .fieldOverflow => 10
  | .illegalOp => 11

end Sys2Proof.Machine
end

