-- ==== Sys2Proof/Machine/Flags.lean ====
section
/-! DEFINITION. The block has no flags (10_state.md R24). What stands in their place are the conditions
an operation tests (45_commands.md R170) and the status a response carries (30_encoding.md R78). -/

namespace Sys2Proof.Machine

/-- Whether a body byte must be escaped (R100). -/
def inEscSet (b : Byte) : Bool := decide (b ∈ ESC_SET)

/-- Whether a pixel sets its bit: strictly above the threshold (R150, R74). -/
def isLit (p : Byte) : Bool := decide (THRESHOLD.toNat < p.toNat)

/-- Whether the second byte of a pair has a result: `byte - 4` lies in 0..255 (R73, R103). -/
def hasPairValue (s : Byte) : Bool := decide (ESC_OFFSET.toNat ≤ s.toNat)

/-- Step 1 of R123: at least two bytes, the start marker first and the end marker last. -/
def markersOk (a : Bytes) : Bool :=
  decide (2 ≤ a.length) && decide (a.head? = some SOF) && decide (a.getLast? = some EOF)

/-- The status of a response that reports success (R78). -/
def statusOk : BitVec 4 := 0

end Sys2Proof.Machine
end

