-- ==== Sys2Proof/Machine/Memory.lean ====
section
/-! DEFINITION. The one addressed data space of the block, the raster read space (10_state.md R34,
20_memory.md R42), as a canonical list of cells: keys strictly rising, no cell that holds what an
unlisted key reads as. The block itself only reads it; writing builds the raster a caller presents. -/

namespace Sys2Proof.Machine

/-- The cells of the raster read space. -/
abbrev Memory := List Host.Cell

/-- What a pixel intensity nobody presented reads as. DESIGN CHOICE (log 3), unsafe: the spec defines
`Raster` on the presented raster only. -/
def unlistedByte : Byte := 0

/-- The byte held under a key. -/
def Memory.read : Memory → Nat → Byte
  | [], _ => unlistedByte
  | (k, v) :: m, a => if a = k then v else Memory.read m a

/-- The memory with one key changed, in canonical form again. -/
def Memory.write : Memory → Nat → Byte → Memory
  | [], a, v => if v = unlistedByte then [] else [(a, v)]
  | (k, w) :: m, a, v =>
    if a < k then
      if v = unlistedByte then (k, w) :: m else (a, v) :: (k, w) :: m
    else if a = k then
      if v = unlistedByte then m else (a, v) :: m
    else (k, w) :: Memory.write m a v

/-- Every key of the list is above `lo` (none for the whole list), they rise, and no cell holds the
unlisted byte. -/
def Memory.wfAbove : Option Nat → Memory → Bool
  | _, [] => true
  | lo, (k, v) :: m =>
    (match lo with
      | none => true
      | some l => decide (l < k)) && decide (v ≠ unlistedByte) && Memory.wfAbove (some k) m

/-- The canonical form. -/
def Memory.wf (m : Memory) : Bool := Memory.wfAbove none m

/-- The colour channels in the order R, G, B (R42). -/
inductive Channel where
  | r
  | g
  | b
  deriving DecidableEq, Repr

/-- The number of a channel: 0 = R, 1 = G, 2 = B (R42). -/
def Channel.num : Channel → Nat
  | .r => 0
  | .g => 1
  | .b => 2

/-- The key of a triple `(x, y, c)`. DESIGN CHOICE (log 3): the spec gives the raster no linear layout
(92_eei_decisions.md D20); any numbering that keeps triples apart serves. -/
def rasterKey (x y c : Nat) : Nat := (c * 65536 + x) * 65536 + y

/-- `Raster(x, y, c)`: the intensity at column `x`, row `y`, channel `c` (R12, R42). -/
def Raster (m : Memory) (x y c : Nat) : Byte := m.read (rasterKey x y c)

end Sys2Proof.Machine
end

