-- ==== Sys2Proof/Machine/Wire.lean ====
section
/-! DEFINITION. The normative functions of the operations over whole byte sequences (00_scope.md R13):
what each operation computes. The sequential realisations, which the meanings run, stand in the
family files; that they agree with these functions is stated and proved, not assumed. -/

namespace Sys2Proof.Machine

/-- `u16be(n)`: most significant byte first (R11, R44). -/
def u16be (v : Half) : Bytes := [v.extractLsb' 8 8, v.extractLsb' 0 8]

/-- `be16(a, b) = 256*a + b` (R11, R44). -/
def be16 (hi lo : Byte) : Half := hi ++ lo

/-- The 16-bit value of a length that has been checked to fit (R71). -/
def half (n : Nat) : Half := BitVec.ofNat 16 n

/-- What the escape encoder sends for one body byte (R61, R100). -/
def escapeByte (b : Byte) : Bytes :=
  if inEscSet b then [ESC_BYTE, b + ESC_OFFSET] else [b]

/-- `escape` (R100). -/
def escape : Bytes → Bytes
  | [] => []
  | b :: r => escapeByte b ++ escape r

/-- `unescape` (R103): the error met first in a scan from index 0 is the result. -/
def unescape : Bytes → Except ErrorKind Bytes
  | [] => .ok []
  | [b] => if b = ESC_BYTE then .error .truncatedEscape else .ok [b]
  | b :: s :: r =>
    if b = ESC_BYTE then
      if hasPairValue s then
        (unescape r).map ((s - ESC_OFFSET) :: ·)
      else .error .invalidEscape
    else (unescape (s :: r)).map (b :: ·)

/-- `checksum`: exclusive-or of all bytes from the seed (R110). -/
def checksum (a : Bytes) : Byte := a.foldl (· ^^^ ·) XSUM_SEED

/-- The body of a frame before escaping: declared length, tag, inner payload (R62, R63). -/
def frameBody (tag : Byte) (a : Bytes) : Bytes := u16be (half (a.length + 1)) ++ [tag] ++ a

/-- A frame's wire bytes (R62). -/
def frameBytes (tag : Byte) (a : Bytes) : Bytes := [SOF] ++ escape (frameBody tag a) ++ [EOF]

/-- `build_frame` (R120). -/
def buildFrame (tag : Byte) (a : Bytes) : Except ErrorKind Bytes :=
  if INNER_MAX < a.length then .error .fieldOverflow else .ok (frameBytes tag a)

/-- The bytes between a message's first and last byte (R14, R123). -/
def interior (a : Bytes) : Bytes := (a.drop 1).dropLast

/-- Steps 3 to 5 of R123, on the unescaped body. -/
def parseBody : Bytes → Except ErrorKind (Byte × Bytes)
  | b0 :: b1 :: content =>
    if content.length ≠ (be16 b0 b1).toNat then .error .lengthMismatch
    else
      match content with
      | [] => .error .shortBody
      | tag :: payload => .ok (tag, payload)
  | _ => .error .shortBody

/-- `parse_frame` (R123), the checks in its order. -/
def parseFrame (a : Bytes) : Except ErrorKind (Byte × Bytes) :=
  if markersOk a then (unescape (interior a)).bind parseBody else .error .invalidFraming

/-- The fields of an acknowledgement (R68). -/
structure AckFields where
  /-- content offset 0, the byte in the tag position -/
  ackType : Byte
  /-- content offset 1 -/
  ackId : Byte
  /-- content offsets 2 and 3: echoed sequence index -/
  seq : Half
  /-- content offset 4: 0 = OK -/
  status : Byte
  deriving DecidableEq, Repr

/-- The Ack fields of a frame's content; bytes after the fifth are ignored (R68, R175). -/
def ackFields : Bytes → Except ErrorKind AckFields
  | t :: i :: s1 :: s0 :: st :: _ => .ok ⟨t, i, be16 s1 s0, st⟩
  | _ => .error .shortBody

/-- `decode_ack` up to its status check (R175). -/
def decodeAck (a : Bytes) : Except ErrorKind AckFields :=
  (parseFrame a).bind fun r => ackFields (r.1 :: r.2)

/-- A sub-packet's header and chunk, the bytes its checksum covers (R64, R135). -/
def subpacketHead (total index : Half) (chunk : Bytes) : Bytes :=
  [SUBPKT_LEAD] ++ u16be total ++ u16be index ++ [BitVec.ofNat 8 chunk.length] ++ chunk

/-- A sub-packet's bytes (R64). -/
def subpacketBytes (total index : Half) (chunk : Bytes) : Bytes :=
  subpacketHead total index chunk ++ [checksum (subpacketHead total index chunk)]

/-- `subpacket` (R135). -/
def subpacket (total index : Half) (chunk : Bytes) : Except ErrorKind Bytes :=
  if MAX_CHUNK < chunk.length then .error .fieldOverflow
  else .ok (subpacketBytes total index chunk)

/-- `ceil(L/128)`, the number of sub-packets of a stream of `L` bytes (R137). -/
def chunkCount (len : Nat) : Nat := (len + (MAX_CHUNK - 1)) / MAX_CHUNK

/-- `c_i = A[128*i .. min(128*(i+1), L))` (R137). -/
def chunkAt (a : Bytes) (i : Nat) : Bytes := (a.drop (MAX_CHUNK * i)).take MAX_CHUNK

/-- `f_i`: the frame of sub-packet `i` of a stream (R137). -/
def streamFrame (tag : Byte) (a : Bytes) (i : Nat) : Bytes :=
  frameBytes tag (subpacketBytes (half a.length) (half i) (chunkAt a i))

/-- `stream_frames` (R137). Its inner calls cannot fail: a chunk has at most 128 bytes and a sub-packet
at most 135. -/
def streamFrames (tag : Byte) (a : Bytes) : Except ErrorKind (List Bytes) :=
  if FIELD_MAX < a.length then .error .fieldOverflow
  else .ok ((List.range (chunkCount a.length)).map (streamFrame tag a))

/-- The column word of column `x`, channel `c`: row `y` is bit `15 - y` (R74, R150). -/
def columnWord (m : Memory) (x c : Nat) : Half :=
  (List.range ROWS).foldl
    (fun v y => if isLit (Raster m x y c) then v + ((1 : Half) <<< (15 - y)) else v) 0

/-- The bitmap of a raster of width `w`: all columns of R, then of G, then of B (R65, R150). -/
def bitmapBytes (m : Memory) (w : Nat) : Bytes :=
  (List.range CHANNELS).flatMap fun c =>
    (List.range w).flatMap fun x => u16be (columnWord m x c)

/-- `pack_bitmap` (R150). -/
def packBitmap (width height : Half) (m : Memory) : Except ErrorKind Bytes :=
  if height.toNat ≠ ROWS then .error .unsupportedHeight else .ok (bitmapBytes m width.toNat)

/-- A Text payload's bytes (R66). -/
def textPayloadBytes (bitmap caption : Bytes) : Bytes :=
  List.replicate TEXT_RESERVED 0 ++ [BitVec.ofNat 8 caption.length] ++ caption ++
    List.replicate (CAPTION_MAX - caption.length) 0 ++ u16be (half bitmap.length) ++ bitmap

/-- `text_payload` (R154); `CaptionTooLong` is checked first. -/
def textPayload (bitmap caption : Bytes) : Except ErrorKind Bytes :=
  if CAPTION_MAX < caption.length then .error .captionTooLong
  else if FIELD_MAX < bitmap.length then .error .fieldOverflow
  else .ok (textPayloadBytes bitmap caption)

/-- `cmd_text` (R165). -/
def cmdText (width height : Half) (m : Memory) (caption : Bytes) :
    Except ErrorKind (List Bytes) :=
  (packBitmap width height m).bind fun bm =>
    (textPayload bm caption).bind fun tp => streamFrames TAG_TEXT tp

/-- `cmd_mode` (R167). -/
def cmdMode (mode : Byte) : Except ErrorKind Bytes := buildFrame TAG_MODE [mode]

/-- The message whose content is exactly these Ack fields (R68). -/
def ackMessage (f : AckFields) : Bytes :=
  frameBytes f.ackType ([f.ackId] ++ u16be f.seq ++ [f.status])

end Sys2Proof.Machine
end

