-- ==== Sys2Proof/Syntax.lean ====
section
/-! DEFINITION. The instructions: one constructor for each row of spec/opcode_table.json, and the
formats the table's rows are written in. A request's operands are the latches of its agent
(10_state.md R22), so a request row carries none; a code-point row carries its own fields. -/

namespace Sys2Proof

/-- The table's "format" column: what kind of word a row is. The three request formats are one here,
since the port a request arrives on is given beside it. -/
inductive Format where
  /-- an operation select `op[3:0]` at a request port (R76) -/
  | request
  /-- R61 -/
  | escapePair
  /-- R61 -/
  | plainByte
  /-- R62 -/
  | marker
  /-- R62 -/
  | frame
  /-- R69 -/
  | tag
  /-- R70 -/
  | mode
  /-- R64 -/
  | subpacket
  /-- R65 -/
  | columnWord
  /-- R66 -/
  | textPayload
  /-- R67 -/
  | modePayload
  /-- R68 -/
  | ackContent
  /-- R68 -/
  | ackStatus
  deriving DecidableEq, Repr

/-- The rows of the opcode table. `side` says whether the block writes the code point (`tx`) or reads
it (`rx`), where it does both. -/
inductive Instr where
  -- requests (30_encoding.md R76)
  | esc
  | unesc
  | xsum
  | frameBuild
  | frameParse
  | ackDecode
  | subpktFmt
  | streamSend
  | bmpPack
  | textPayload
  | cmdText
  | cmdMode
  /-- a request whose `op` is reserved or belongs to the other agent's port (R79) -/
  | reservedOp (port : Agent) (op : BitVec 4)
  -- wire code points (R61 to R70)
  | pair01 (side : Agent)
  | pair02 (side : Agent)
  | pair03 (side : Agent)
  /-- `02 s` as received, `s` other than 5, 6, 7 (R73) -/
  | pairLenient (s : Byte)
  | plain (side : Agent) (b : Byte)
  | sof (side : Agent)
  | eof (side : Agent)
  | frame (side : Agent) (tag : Byte) (payload : Bytes)
  | tagText
  | tagMode
  | mode1
  | mode2
  | mode3
  | mode4
  | mode5
  | mode6
  | mode7
  | mode8
  | subpkt (total index : Half) (chunk : Bytes)
  | bitmapColumn (word : Half)
  | text (caption bitmap : Bytes)
  | modePayload (mode : Byte)
  | ack (ackType ackId : Byte) (seq : Half) (status : Byte)
  | statusOk
  deriving DecidableEq, Repr

end Sys2Proof
end

