-- ==== Sys2Proof/WellFormed.lean ====
section
/-! DEFINITION. Which instructions have an encoding: the ranges the spec's field tables give. -/

namespace Sys2Proof

open Sys2Proof.Machine

/-- An instruction's fields lie in the ranges of its format. -/
def Instr.wf : Instr → Bool
  -- reserved, or not this port's (R79)
  | .reservedOp port op => decide (opOwner op ≠ some port)
  -- the pairs 02 05, 02 06, 02 07 have rows of their own (R61, R73)
  | .pairLenient s => decide (s ≠ 5 ∧ s ≠ 6 ∧ s ≠ 7)
  -- written: never a byte of ESC_SET; read: never the introducer (R61, R80)
  | .plain .tx b => !inEscSet b
  | .plain .rx b => decide (b ≠ ESC_BYTE)
  -- the declared length fits 2 bytes (R120)
  | .frame _ _ payload => decide (payload.length ≤ INNER_MAX)
  -- chunk length 0..128 (R64)
  | .subpkt _ _ chunk => decide (chunk.length ≤ MAX_CHUNK)
  -- caption length 0..80, bitmap length in 2 bytes (R66)
  | .text caption bitmap => decide (caption.length ≤ CAPTION_MAX) && decide (bitmap.length ≤ FIELD_MAX)
  | .esc | .unesc | .xsum | .frameBuild | .frameParse | .ackDecode | .subpktFmt | .streamSend
  | .bmpPack | .textPayload | .cmdText | .cmdMode => true
  | .pair01 _ | .pair02 _ | .pair03 _ | .sof _ | .eof _ | .tagText | .tagMode => true
  | .mode1 | .mode2 | .mode3 | .mode4 | .mode5 | .mode6 | .mode7 | .mode8 => true
  | .bitmapColumn _ | .modePayload _ | .ack _ _ _ _ | .statusOk => true

end Sys2Proof
end

