-- ==== Sys2Proof/Decode.lean ====
section
/-! DEFINITION. The decoder, total on any bytes and rejecting by name, and after it the encoder. A word
is read in the format it is presented in, on the side it is presented to: the same byte is a marker,
a tag, a mode or an operation code by its place alone (30_encoding.md R76, R80, R81). -/

namespace Sys2Proof

open Sys2Proof.Machine

/-- Why bytes are no word of the format they are presented in. Nothing here is an effect of the block:
a malformed message given to a request is answered by an error response, not by these. -/
inductive Reject where
  /-- not as many bytes as the format has -/
  | wrongLength
  /-- bits above `op[3:0]` are set (R76) -/
  | opTooWide
  /-- an operation select presented as a code point: it comes with a request's operands only (R22, R36) -/
  | requestWord
  /-- a format the block only writes presented as received, or the reverse -/
  | wrongSide
  /-- the first byte of a pair is not `ESC_BYTE`, or the block never writes this pair (R61) -/
  | notAPair
  /-- a control byte bare where it cannot be (R80) -/
  | controlByte
  /-- neither start nor end marker (R62) -/
  | notAMarker
  /-- a tag without a meaning (R69) -/
  | noTagMeaning
  /-- a mode value without a meaning (R70) -/
  | noModeMeaning
  /-- not a frame, and the error `FRAME.PARSE` has for it (R123) -/
  | notAFrame (k : ErrorKind)
  /-- a frame the parser accepts and the builder never writes (R125) -/
  | lenientFrame
  /-- a lead or reserved byte is not zero (R80) -/
  | reservedNotZero
  /-- a length field does not agree with the bytes it counts -/
  | lengthField
  /-- the last byte is not the checksum (R64) -/
  | wrongChecksum
  /-- padding that is not zero (R75) -/
  | paddingNotZero
  /-- a status other than 0 (R68) -/
  | statusNotOk
  deriving DecidableEq, Repr

/-- The operation codes of each port (R76, R79). -/
def decodeOp (port : Agent) (op : BitVec 4) : Instr :=
  match port, op.toNat with
  | .tx, 0x0 => .esc
  | .rx, 0x1 => .unesc
  | .tx, 0x2 => .xsum
  | .tx, 0x3 => .frameBuild
  | .rx, 0x4 => .frameParse
  | .rx, 0x5 => .ackDecode
  | .tx, 0x6 => .subpktFmt
  | .tx, 0x7 => .streamSend
  | .tx, 0x8 => .bmpPack
  | .tx, 0x9 => .textPayload
  | .tx, 0xA => .cmdText
  | .tx, 0xB => .cmdMode
  | _, _ => .reservedOp port op

/-- R76: the operation select in the low four bits of its byte. -/
def decodeRequest (port : Agent) : Bytes → Except Reject Instr
  | [b] => if b.toNat < 16 then .ok (decodeOp port (b.extractLsb' 0 4)) else .error .opTooWide
  | _ => .error .wrongLength

/-- R61 and R73: three pairs are written; on receipt any second byte makes a pair. -/
def decodePair (side : Agent) : Bytes → Except Reject Instr
  | [e, s] =>
    if e ≠ ESC_BYTE then .error .notAPair
    else if s = 5 then .ok (.pair01 side)
    else if s = 6 then .ok (.pair02 side)
    else if s = 7 then .ok (.pair03 side)
    else
      match side with
      | .rx => .ok (.pairLenient s)
      | .tx => .error .notAPair
  | _ => .error .wrongLength

/-- R61, R80: what may stand outside a pair. -/
def decodePlain (side : Agent) : Bytes → Except Reject Instr
  | [b] =>
    match side with
    | .tx => if inEscSet b then .error .controlByte else .ok (.plain .tx b)
    | .rx => if b = ESC_BYTE then .error .controlByte else .ok (.plain .rx b)
  | _ => .error .wrongLength

/-- R62: the markers. -/
def decodeMarker (side : Agent) : Bytes → Except Reject Instr
  | [b] =>
    if b = SOF then .ok (.sof side) else if b = EOF then .ok (.eof side) else .error .notAMarker
  | _ => .error .wrongLength

/-- R62: a frame as the builder writes it. -/
def decodeFrame (side : Agent) (bs : Bytes) : Except Reject Instr :=
  match parseFrame bs with
  | .error k => .error (.notAFrame k)
  | .ok (tag, payload) =>
    if frameBytes tag payload = bs then .ok (.frame side tag payload) else .error .lenientFrame

/-- R69: the two tags. -/
def decodeTag : Bytes → Except Reject Instr
  | [b] =>
    if b = TAG_TEXT then .ok .tagText else if b = TAG_MODE then .ok .tagMode
    else .error .noTagMeaning
  | _ => .error .wrongLength

/-- R70: the eight mode values. -/
def decodeMode : Bytes → Except Reject Instr
  | [b] =>
    match b.toNat with
    | 1 => .ok .mode1
    | 2 => .ok .mode2
    | 3 => .ok .mode3
    | 4 => .ok .mode4
    | 5 => .ok .mode5
    | 6 => .ok .mode6
    | 7 => .ok .mode7
    | 8 => .ok .mode8
    | _ => .error .noModeMeaning
  | _ => .error .wrongLength

/-- R64: lead, total size, index, chunk length, chunk, checksum. -/
def decodeSubpacket : Bytes → Except Reject Instr
  | lead :: t1 :: t0 :: i1 :: i0 :: n :: rest =>
    let chunk := rest.take n.toNat
    if lead ≠ SUBPKT_LEAD then .error .reservedNotZero
    else if MAX_CHUNK < n.toNat ∨ rest.length ≠ n.toNat + 1 then .error .lengthField
    else if rest.drop n.toNat ≠ [checksum (lead :: t1 :: t0 :: i1 :: i0 :: n :: chunk)] then
      .error .wrongChecksum
    else .ok (.subpkt (be16 t1 t0) (be16 i1 i0) chunk)
  | _ => .error .wrongLength

/-- R65: a column word, most significant byte first. -/
def decodeColumn : Bytes → Except Reject Instr
  | [hi, lo] => .ok (.bitmapColumn (be16 hi lo))
  | _ => .error .wrongLength

/-- R66: the part of a Text payload after its reserved bytes, `k` the caption-length byte. -/
def decodeCaption (k : Byte) (field : Bytes) : Bytes → Except Reject Instr
  | l1 :: l0 :: bitmap =>
    if CAPTION_MAX < k.toNat ∨ bitmap.length ≠ (be16 l1 l0).toNat then .error .lengthField
    else if field.drop k.toNat ≠ List.replicate (CAPTION_MAX - k.toNat) 0 then
      .error .paddingNotZero
    else .ok (.text (field.take k.toNat) bitmap)
  | _ => .error .wrongLength

/-- R66: reserved bytes, caption length, caption field, bitmap length, bitmap. -/
def decodeText (bs : Bytes) : Except Reject Instr :=
  if bs.length < TEXT_HDR then .error .wrongLength
  else if bs.take TEXT_RESERVED ≠ List.replicate TEXT_RESERVED 0 then .error .reservedNotZero
  else
    match bs.drop TEXT_RESERVED with
    | k :: rest => decodeCaption k (rest.take CAPTION_MAX) (rest.drop CAPTION_MAX)
    | [] => .error .wrongLength

/-- R67: one byte, any value (D14). -/
def decodeModePayload : Bytes → Except Reject Instr
  | [m] => .ok (.modePayload m)
  | _ => .error .wrongLength

/-- R68: the five fields of an Ack's content. -/
def decodeAckContent : Bytes → Except Reject Instr
  | [t, i, s1, s0, st] => .ok (.ack t i (be16 s1 s0) st)
  | _ => .error .wrongLength

/-- R68: the status value 0. -/
def decodeAckStatus : Bytes → Except Reject Instr
  | [st] => if st = STATUS_OK then .ok .statusOk else .error .statusNotOk
  | _ => .error .wrongLength

/-- A decoder of one side's format. -/
def onSide (want side : Agent) (r : Except Reject Instr) : Except Reject Instr :=
  if want = side then r else .error .wrongSide

/-- The decoder: the word `bytes` of format `f` at the port of `side`. -/
def decode (f : Format) (side : Agent) (bytes : Bytes) : Except Reject Instr :=
  match f with
  | .request => decodeRequest side bytes
  | .escapePair => decodePair side bytes
  | .plainByte => decodePlain side bytes
  | .marker => decodeMarker side bytes
  | .frame => decodeFrame side bytes
  | .tag => onSide .tx side (decodeTag bytes)
  | .mode => onSide .tx side (decodeMode bytes)
  | .subpacket => onSide .tx side (decodeSubpacket bytes)
  | .columnWord => onSide .tx side (decodeColumn bytes)
  | .textPayload => onSide .tx side (decodeText bytes)
  | .modePayload => onSide .tx side (decodeModePayload bytes)
  | .ackContent => onSide .rx side (decodeAckContent bytes)
  | .ackStatus => onSide .rx side (decodeAckStatus bytes)

/-- A word with the format and side that say how it is read. -/
structure Encoded where
  /-- the table's format -/
  format : Format
  /-- the port it stands at -/
  side : Agent
  /-- its bytes, first byte leftmost -/
  bytes : Bytes
  deriving DecidableEq, Repr

/-- The decoder on an encoded word. -/
def Encoded.decode (w : Encoded) : Except Reject Instr :=
  Sys2Proof.decode w.format w.side w.bytes

/-- The byte that holds an operation select (R76). -/
def opByte (op : BitVec 4) : Byte := op.zeroExtend 8

/-- The encoder, from the tables of 30_encoding.md (R61 to R70, R76). -/
def encode : Instr → Encoded
  | .esc => ⟨.request, .tx, [opByte 0x0]⟩
  | .unesc => ⟨.request, .rx, [opByte 0x1]⟩
  | .xsum => ⟨.request, .tx, [opByte 0x2]⟩
  | .frameBuild => ⟨.request, .tx, [opByte 0x3]⟩
  | .frameParse => ⟨.request, .rx, [opByte 0x4]⟩
  | .ackDecode => ⟨.request, .rx, [opByte 0x5]⟩
  | .subpktFmt => ⟨.request, .tx, [opByte 0x6]⟩
  | .streamSend => ⟨.request, .tx, [opByte 0x7]⟩
  | .bmpPack => ⟨.request, .tx, [opByte 0x8]⟩
  | .textPayload => ⟨.request, .tx, [opByte 0x9]⟩
  | .cmdText => ⟨.request, .tx, [opByte 0xA]⟩
  | .cmdMode => ⟨.request, .tx, [opByte 0xB]⟩
  | .reservedOp port op => ⟨.request, port, [opByte op]⟩
  | .pair01 side => ⟨.escapePair, side, [0x02, 0x05]⟩
  | .pair02 side => ⟨.escapePair, side, [0x02, 0x06]⟩
  | .pair03 side => ⟨.escapePair, side, [0x02, 0x07]⟩
  | .pairLenient s => ⟨.escapePair, .rx, [0x02, s]⟩
  | .plain side b => ⟨.plainByte, side, [b]⟩
  | .sof side => ⟨.marker, side, [0x01]⟩
  | .eof side => ⟨.marker, side, [0x03]⟩
  | .frame side tag payload => ⟨.frame, side, frameBytes tag payload⟩
  | .tagText => ⟨.tag, .tx, [0x02]⟩
  | .tagMode => ⟨.tag, .tx, [0x06]⟩
  | .mode1 => ⟨.mode, .tx, [1]⟩
  | .mode2 => ⟨.mode, .tx, [2]⟩
  | .mode3 => ⟨.mode, .tx, [3]⟩
  | .mode4 => ⟨.mode, .tx, [4]⟩
  | .mode5 => ⟨.mode, .tx, [5]⟩
  | .mode6 => ⟨.mode, .tx, [6]⟩
  | .mode7 => ⟨.mode, .tx, [7]⟩
  | .mode8 => ⟨.mode, .tx, [8]⟩
  | .subpkt total index chunk => ⟨.subpacket, .tx, subpacketBytes total index chunk⟩
  | .bitmapColumn word => ⟨.columnWord, .tx, u16be word⟩
  | .text caption bitmap => ⟨.textPayload, .tx, textPayloadBytes bitmap caption⟩
  | .modePayload mode => ⟨.modePayload, .tx, [mode]⟩
  | .ack t i seq st => ⟨.ackContent, .rx, [t, i] ++ u16be seq ++ [st]⟩
  | .statusOk => ⟨.ackStatus, .rx, [0x00]⟩

/-- Where the opcode table's bare words are read: one byte below 16 is an operation select on its own
agent's port (a reserved one on `TX`'s), any other byte a plain byte as received; two bytes that begin
with `ESC_BYTE` are a pair as received, any other two a column word. The table numbers several rows of
one byte alike and names their format beside them (`UNESC`, `SOF` and `MODE.1` are all the byte 1), so
a number alone cannot tell them apart: DESIGN CHOICE (log 8). A two-byte word is stored most
significant byte first (R44). -/
def tableWord (nbits w : Nat) : Option Encoded :=
  if nbits = 8 ∧ w < 16 then
    some ⟨.request, (opOwner (BitVec.ofNat 4 w)).getD .tx, [BitVec.ofNat 8 w]⟩
  else if nbits = 8 ∧ w < 256 then some ⟨.plainByte, .rx, [BitVec.ofNat 8 w]⟩
  else if nbits = 16 ∧ w / 256 = 2 then some ⟨.escapePair, .rx, u16be (BitVec.ofNat 16 w)⟩
  else if nbits = 16 ∧ w < 65536 then some ⟨.columnWord, .tx, u16be (BitVec.ofNat 16 w)⟩
  else none

/-- The instruction this decoder reads from a word of the opcode table given by its bits alone. -/
def decodeTableWord (nbits w : Nat) : Option Instr :=
  (tableWord nbits w).bind fun e => e.decode.toOption

end Sys2Proof
end

