-- ==== Sys2Proof/Machine/State.lean ====
section
/-! DEFINITION. The machine's state as plain data: operand latches, working registers, output buffers
and response port of each agent (10_state.md), the raster read space, and what the outside has
presented; the reasons a step can stop; the state after reset (R36). -/

namespace Sys2Proof.Machine

/-- `FB.phase` (R29). -/
inductive FbPhase where
  | sof
  | lenHi
  | lenLo
  | tag
  | pay
  | eof
  | done
  deriving DecidableEq, Repr

/-- `TP.phase` (R33). -/
inductive TpPhase where
  | reserved
  | capLen
  | caption
  | pad
  | bmLenHi
  | bmLenLo
  | bitmap
  | done
  deriving DecidableEq, Repr

/-- The result a response carries (R77). -/
inductive Result where
  /-- one buffer -/
  | buffer (bytes : Bytes)
  /-- one byte -/
  | byte (b : Byte)
  /-- an ordered list of buffers, possibly empty -/
  | buffers (list : List Bytes)
  /-- tag and inner payload of a parsed frame -/
  | parsed (tag : Byte) (payload : Bytes)
  /-- the fields of an Ack -/
  | ack (fields : AckFields)
  deriving DecidableEq, Repr

/-- A response (R78). -/
structure Response where
  /-- 0 = success, otherwise an error code -/
  status : BitVec 4
  /-- the result; with an error only for `DeviceReportedError` -/
  result : Option Result
  /-- for an `RX` operation that failed: its whole input -/
  raw : Option Bytes
  deriving DecidableEq, Repr

/-- The operand latches of the `TX` agent (R22). -/
structure TxLatches where
  op : BitVec 4
  tag : Byte
  totalLen : Half
  index : Half
  mode : Byte
  width : Half
  height : Half
  a : Bytes
  b : Bytes
  deriving DecidableEq, Repr

/-- The operand latches of the `RX` agent: only `op` and `A` (R22). -/
structure RxLatches where
  op : BitVec 4
  a : Bytes
  deriving DecidableEq, Repr

/-- The `TX` agent. -/
structure TxAgent where
  /-- operand latches -/
  lat : TxLatches
  /-- running an operation that has not responded (R240) -/
  busy : Bool
  /-- the response port: the response not yet taken (R78) -/
  resp : Option Response
  /-- the output buffer being built (R12, R41) -/
  out : Bytes
  /-- the buffers the running operation has delivered (R12) -/
  closed : List Bytes
  /-- the transport message sequence, in delivery order (R43) -/
  sent : List Bytes
  /-- `XS.acc` (R28) -/
  xsAcc : Byte
  /-- `FB.phase` (R29) -/
  fbPhase : FbPhase
  /-- `FB.cnt` (R29) -/
  fbCnt : Half
  /-- `SP.seq_idx` (R31) -/
  spSeqIdx : Half
  /-- `SP.total_len` (R31) -/
  spTotalLen : Half
  /-- `SP.off` (R31) -/
  spOff : Half
  /-- `SP.clen` (R31) -/
  spClen : Byte
  /-- `BP.chan` (R32) -/
  bpChan : BitVec 2
  /-- `BP.x` (R32) -/
  bpX : Half
  /-- `BP.row` (R32) -/
  bpRow : BitVec 4
  /-- `BP.col_word` (R32) -/
  bpColWord : Half
  /-- `TP.phase` (R33) -/
  tpPhase : TpPhase
  /-- `TP.cnt` (R33) -/
  tpCnt : Half
  deriving DecidableEq, Repr

/-- The `RX` agent. -/
structure RxAgent where
  /-- operand latches -/
  lat : RxLatches
  /-- running an operation that has not responded (R240) -/
  busy : Bool
  /-- the response port (R78) -/
  resp : Option Response
  /-- the output buffer being built (R12, R41) -/
  out : Bytes
  /-- `UE.esc_pending` (R27) -/
  uePending : Bool
  /-- `FP.buf` (R30) -/
  fpBuf : Bytes
  /-- `FP.body` (R30) -/
  fpBody : Bytes
  /-- `FP.declared` (R30) -/
  fpDeclared : Half
  deriving DecidableEq, Repr

/-- One pixel intensity of a raster a caller presents (R42). -/
structure Pixel where
  x : Half
  y : Half
  c : Channel
  v : Byte
  deriving DecidableEq, Repr

/-- What the outside world does to the block, one event each (R6, R78, R230, R231, R240). -/
inductive Input where
  /-- a request at `TX`'s port -/
  | txRequest (r : TxLatches)
  /-- a request at `RX`'s port -/
  | rxRequest (r : RxLatches)
  /-- one wire code point, for the unit that writes or reads it (log 7) -/
  | wire (format : Format) (side : Agent) (bytes : Bytes)
  /-- the caller takes the response of a port -/
  | take (port : Agent)
  /-- the caller presents a raster -/
  | raster (pixels : List Pixel)
  /-- an accepted request whose announced operand bytes never come (93 V3) -/
  | starve (port : Agent)
  /-- an accepted request whose operands change before the response (93 V1) -/
  | unstable (port : Agent)
  /-- `rst`, no operation running (R230) -/
  | reset
  /-- a `TX` request and `rst` during it, after `k` of its frames have been delivered (R231) -/
  | txCutShort (r : TxLatches) (k : Nat)
  /-- an `RX` request and `rst` during it (R231) -/
  | rxCutShort (r : RxLatches)
  deriving DecidableEq, Repr

/-- The machine. -/
structure State where
  /-- the encode side -/
  tx : TxAgent
  /-- the decode side -/
  rx : RxAgent
  /-- the raster read space (R34, R42) -/
  raster : Memory
  /-- presented and not yet taken by the block, in arrival order -/
  inputs : List Input
  deriving DecidableEq, Repr

/-- Reasons the machine stops with a fault: none. An operation that cannot complete answers an error
RESPONSE and the machine goes on (R216, R218). -/
inductive Fault where
  deriving DecidableEq, Repr

/-- Reasons a step has no meaning. -/
inductive Refusal where
  /-- an instruction without a meaning in this model: raised by no arm now; safe -/
  | notModelled (mnemonic : String)
  /-- raised by the step on a wire code point whose bytes are no word of their format (log 21); safe -/
  | notACodePoint (r : Reject)
  /-- raised by the step where operands change during an operation: the spec defines no result
  (93 V1, R240, log 17); safe -/
  | operandsChanged (port : Agent)
  deriving DecidableEq, Repr

/-- The `TX` latches at reset. R36 leaves them unspecified: DESIGN CHOICE (log 1), unsafe. -/
def TxLatches.reset : TxLatches :=
  { op := 0, tag := 0, totalLen := 0, index := 0, mode := 0, width := 0, height := 0, a := [], b := [] }

/-- The `RX` latches at reset: DESIGN CHOICE (log 1), unsafe. -/
def RxLatches.reset : RxLatches := { op := 0, a := [] }

/-- The `TX` agent at reset (R36). -/
def TxAgent.reset : TxAgent :=
  { lat := TxLatches.reset, busy := false, resp := none, out := [], closed := [], sent := [],
    xsAcc := 0, fbPhase := .sof, fbCnt := 0, spSeqIdx := 0, spTotalLen := 0, spOff := 0, spClen := 0,
    bpChan := 0, bpX := 0, bpRow := 0, bpColWord := 0, tpPhase := .reserved, tpCnt := 24 }

/-- The `RX` agent at reset (R36). -/
def RxAgent.reset : RxAgent :=
  { lat := RxLatches.reset, busy := false, resp := none, out := [], uePending := false, fpBuf := [],
    fpBody := [], fpDeclared := 0 }

/-- The machine right after reset (R36): both agents idle, nothing presented, nothing delivered. -/
def State.reset : State :=
  { tx := TxAgent.reset, rx := RxAgent.reset, raster := [], inputs := [] }

end Sys2Proof.Machine
end

