-- ==== Sys2Proof/Machine/Ops.lean ====
section
/-! DEFINITION. The operations every meaning is built from: the primitives of 00_scope.md R12 (emit,
deliver, raise), the response port, reset, and what a step answers. -/

namespace Sys2Proof.Machine

/-- What a step or a meaning answers. -/
abbrev Answer := Host.Outcome State Fault Refusal

/-- A response that reports success (R78). -/
def Response.ok (r : Result) : Response := { status := statusOk, result := some r, raw := none }

/-- A response that reports an error: its code, the input of the failed decode operation where there
is one, and the Ack fields where the kind carries them (R78, R201, R205, R217). -/
def Response.error (k : ErrorKind) (raw : Option Bytes) (ack : Option AckFields) : Response :=
  { status := k.code, result := ack.map Result.ack, raw := raw }

/-! ### Output buffers of `TX` -/

/-- An operation opens its own output buffer (R41). -/
def TxAgent.begin (t : TxAgent) : TxAgent := { t with out := [], closed := [] }

/-- `emit b` (R12). -/
def TxAgent.emit (t : TxAgent) (b : Byte) : TxAgent := { t with out := t.out ++ [b] }

/-- Deliver the open buffer as a result of the operation, and open a new one (R12, R41). -/
def TxAgent.close (t : TxAgent) : TxAgent :=
  { t with closed := t.closed ++ [t.out], out := [] }

/-- Deliver the open buffer as one transport message (R12, R43). -/
def TxAgent.deliver (t : TxAgent) : TxAgent :=
  { t with closed := t.closed ++ [t.out], sent := t.sent ++ [t.out], out := [] }

/-! ### Output buffer of `RX` -/

/-- An operation opens its own output buffer (R41). -/
def RxAgent.begin (r : RxAgent) : RxAgent := { r with out := [] }

/-! ### Response ports -/

/-- An agent can accept: idle, and its last response taken (R240). -/
def TxAgent.ready (t : TxAgent) : Bool := !t.busy && t.resp.isNone

/-- An agent can accept: idle, and its last response taken (R240). -/
def RxAgent.ready (r : RxAgent) : Bool := !r.busy && r.resp.isNone

/-- The agent of a port can accept (R240). -/
def State.ready (s : State) : Agent → Bool
  | .tx => s.tx.ready
  | .rx => s.rx.ready

/-- The operation of a port ends: its response stands at the port, its buffers have been handed over
(R41, R78). -/
def State.answer (s : State) (port : Agent) (r : Response) : State :=
  match port with
  | .tx => { s with tx := { s.tx with resp := some r, out := [], closed := [] } }
  | .rx => { s with rx := { s.rx with resp := some r, out := [] } }

/-- The operation of a port ends in success (R78). -/
def State.respond (s : State) (port : Agent) (r : Result) : State := s.answer port (Response.ok r)

/-- `raise E(info)`, the one way an operation ends in an error (R216): it stops, every output buffer it
has built is discarded, the response carries the code and the information, the agent is idle. Nothing
else changes: no saved state, no mode, no handler. There is no return from it either (R218): the
caller takes the response. -/
def State.raise (s : State) (port : Agent) (k : ErrorKind) (raw : Option Bytes)
    (ack : Option AckFields) : State :=
  s.answer port (Response.error k raw ack)

/-- A request that is refused (R79, R212): the response, and nothing else; no operation has been
started, so no buffer is discarded either. -/
def State.refuse (s : State) (port : Agent) : State :=
  match port with
  | .tx => { s with tx := { s.tx with resp := some (Response.error .illegalOp none none) } }
  | .rx => { s with rx := { s.rx with resp := some (Response.error .illegalOp none none) } }

/-- The caller takes the response of a port, if there is one (R78, R240). -/
def State.take (s : State) (port : Agent) : State :=
  match port with
  | .tx => { s with tx := { s.tx with resp := none } }
  | .rx => { s with rx := { s.rx with resp := none } }

/-! ### Ends of `TX` operations -/

/-- The operation's one result buffer is its response. -/
def State.respondBuffer (s : State) (t : TxAgent) : State :=
  { s with tx := t }.respond .tx (.buffer (t.closed.headD []))

/-- The operation's delivered buffers, in order, are its response. -/
def State.respondBuffers (s : State) (t : TxAgent) : State :=
  { s with tx := t }.respond .tx (.buffers t.closed)

/-- A `TX` operation ends in an error; encode errors carry nothing (R201). -/
def State.raiseTx (s : State) (t : TxAgent) (k : ErrorKind) : State :=
  { s with tx := t }.raise .tx k none none

/-- An `RX` operation ends in an error with the input that failed (R217). -/
def State.raiseRx (s : State) (r : RxAgent) (k : ErrorKind) (raw : Bytes) : State :=
  { s with rx := r }.raise .rx k (some raw) none

/-! ### Reset and presentation -/

/-- `rst` (R36, R230, R231): every working register at its reset value, both agents idle, partly built
buffers and pending responses gone. Delivered messages have left the block, the raster is the
caller's, and requests not yet accepted go on waiting. -/
def State.rst (s : State) : State :=
  { s with tx := { TxAgent.reset with sent := s.tx.sent }, rx := RxAgent.reset }

/-- The raster a caller presents, as canonical cells (R42). -/
def rasterOf (pixels : List Pixel) : Memory :=
  pixels.foldl
    (fun m p => m.write (rasterKey p.x.toNat p.y.toNat p.c.num) p.v) []

/-- The agent of a port has accepted a request and waits for ever for its operand bytes (93 V3). -/
def State.starve (s : State) (port : Agent) : State :=
  match port with
  | .tx => { s with tx := { s.tx with busy := true } }
  | .rx => { s with rx := { s.rx with busy := true } }

end Sys2Proof.Machine
end

