-- ==== Sys2Proof/Machine/Operands.lean ====
section
/-! DEFINITION. The operand forms: which latches an operation reads (30_encoding.md R77) and how a
request's operands come to stand in them (10_state.md R22). -/

namespace Sys2Proof.Machine

/-- `A` of a `TX` operation. -/
def State.txA (s : State) : Bytes := s.tx.lat.a

/-- `B` of a `TX` operation. -/
def State.txB (s : State) : Bytes := s.tx.lat.b

/-- `A` of an `RX` operation. -/
def State.rxA (s : State) : Bytes := s.rx.lat.a

/-- A `TX` request is accepted: its operands are latched. A request with a reserved or misplaced `op`
is refused and no operand is read (R79, R212). -/
def State.acceptTx (s : State) (r : TxLatches) : State :=
  if opOwner r.op = some .tx then { s with tx := { s.tx with lat := r } } else s

/-- An `RX` request is accepted or refused, as `acceptTx`. -/
def State.acceptRx (s : State) (r : RxLatches) : State :=
  if opOwner r.op = some .rx then { s with rx := { s.rx with lat := r } } else s

end Sys2Proof.Machine
end

