-- ==== Sys2Proof/Machine/Escape.lean ====
section
/-! DEFINITION. The escape codec, units `EE` and `UE` (40_escape.md): their steps, `ESC` and `UNESC`. -/

namespace Sys2Proof.Machine

/-- The `EE` step on one body byte (R102). -/
def TxAgent.escEmit (t : TxAgent) (b : Byte) : TxAgent :=
  if inEscSet b then (t.emit ESC_BYTE).emit (b + ESC_OFFSET) else t.emit b

/-- `ESC` (R100), by its realisation (R102). -/
def execEsc (s : State) : Answer :=
  .next (s.respondBuffer (s.txA.foldl TxAgent.escEmit s.tx.begin).close)

/-- The `UE` step (R104): from `UE.esc_pending` and a byte, the new `UE.esc_pending` and what is
emitted; none where it raises `InvalidEscape`. -/
def ueStep (pending : Bool) (b : Byte) : Option (Bool × Bytes) :=
  if pending then
    if hasPairValue b then some (false, [b - ESC_OFFSET]) else none
  else if b = ESC_BYTE then some (true, [])
  else some (false, [b])

/-- How a run of `UE` over an input ended. -/
structure UeEnd where
  /-- `UE.esc_pending` -/
  pending : Bool
  /-- the bytes emitted -/
  out : Bytes
  /-- the error raised -/
  err : Option ErrorKind
  deriving DecidableEq, Repr

/-- `UE` over an input from its first byte to its end (R104), `out` what has been emitted before. -/
def ueRun (pending : Bool) (out : Bytes) : Bytes → UeEnd
  | [] => ⟨pending, out, if pending then some .truncatedEscape else none⟩
  | b :: r =>
    match ueStep pending b with
    | none => ⟨pending, out, some .invalidEscape⟩
    | some (p, e) => ueRun p (out ++ e) r

/-- `UNESC` (R103), by its realisation (R104). -/
def execUnesc (s : State) : Answer :=
  let u := ueRun false s.rx.begin.out s.rxA
  let r := { s.rx with uePending := u.pending, out := u.out }
  match u.err with
  | some k => .next (s.raiseRx r k s.rxA)
  | none => .next ({ s with rx := r }.respond .rx (.buffer r.out))

end Sys2Proof.Machine
end

