-- ==== Sys2Proof/Machine/Frame.lean ====
section
/-! DEFINITION. The frame builder `FB` and the frame parser `FP` (42_frame.md): the lines of their
realisations, `FRAME.BUILD` and `FRAME.PARSE`. -/

namespace Sys2Proof.Machine

/-! ### `FB` (R122) -/

/-- `PAY` while bytes remain, `EOF` after the last (R122). -/
def payOrEof (cnt : Half) : FbPhase := if 0 < cnt.toNat then .pay else .eof

/-- A frame is begun: its own output buffer, `FB.phase <- SOF`, `FB.cnt <- len(A)` (R29, R122). -/
def TxAgent.fbStart (t : TxAgent) (len : Nat) : TxAgent :=
  { t with out := [], fbPhase := .sof, fbCnt := half len }

/-- line `SOF` -/
def TxAgent.fbSof (t : TxAgent) : TxAgent := { t.emit SOF with fbPhase := .lenHi }

/-- line `LEN_HI` -/
def TxAgent.fbLenHi (t : TxAgent) (len : Half) : TxAgent :=
  { t.escEmit (len.extractLsb' 8 8) with fbPhase := .lenLo }

/-- line `LEN_LO` -/
def TxAgent.fbLenLo (t : TxAgent) (len : Half) : TxAgent :=
  { t.escEmit (len.extractLsb' 0 8) with fbPhase := .tag }

/-- line `TAG` -/
def TxAgent.fbTag (t : TxAgent) (tag : Byte) : TxAgent :=
  { t.escEmit tag with fbPhase := payOrEof t.fbCnt }

/-- line `PAY`, for the next byte of the inner payload -/
def TxAgent.fbPay (t : TxAgent) (b : Byte) : TxAgent :=
  { t.escEmit b with fbCnt := t.fbCnt - 1, fbPhase := payOrEof (t.fbCnt - 1) }

/-- line `EOF` -/
def TxAgent.fbEof (t : TxAgent) : TxAgent := { t.emit EOF with fbPhase := .done }.deliver

/-- The whole realisation after the length check: one frame delivered (R122). -/
def TxAgent.fbRun (t : TxAgent) (tag : Byte) (a : Bytes) : TxAgent :=
  let n := half (a.length + 1)
  (a.foldl TxAgent.fbPay (((((t.fbStart a.length).fbSof).fbLenHi n).fbLenLo n).fbTag tag)).fbEof

/-- Building a frame and answering with it: the length check first, then `FB` (R120, R122). -/
def State.buildAndRespond (s : State) (tag : Byte) (a : Bytes) : State :=
  if INNER_MAX < a.length then s.raiseTx s.tx .fieldOverflow
  else s.respondBuffer (s.tx.begin.fbRun tag a)

/-- `FRAME.BUILD` (R120). -/
def execFrameBuild (s : State) : Answer := .next (s.buildAndRespond s.tx.lat.tag s.txA)

/-! ### `FP` (R124) -/

/-- Phase 1: the whole message is received. -/
def RxAgent.fpReceive (r : RxAgent) (message : Bytes) : RxAgent := { r with fpBuf := message }

/-- Phase 2: the interior of `FP.buf` through `UE`, its bytes to `FP.body`. -/
def RxAgent.fpUnescape (r : RxAgent) : RxAgent × Option ErrorKind :=
  let u := ueRun false [] (interior r.fpBuf)
  ({ r with uePending := u.pending, fpBody := u.out }, u.err)

/-- Phase 3: `FP.declared` is loaded where the body has its two bytes, and steps 3 to 5 of R123 run on
`FP.body`. -/
def RxAgent.fpFields (r : RxAgent) : RxAgent × Except ErrorKind (Byte × Bytes) :=
  let declared :=
    match r.fpBody with
    | b0 :: b1 :: _ => be16 b0 b1
    | _ => r.fpDeclared
  ({ r with fpDeclared := declared }, parseBody r.fpBody)

/-- The three phases on a message (R124); the error that ends it, or tag and inner payload. -/
def RxAgent.fpRun (r : RxAgent) (message : Bytes) : RxAgent × Except ErrorKind (Byte × Bytes) :=
  let r1 := r.fpReceive message
  if markersOk r1.fpBuf then
    match r1.fpUnescape with
    | (r2, some k) => (r2, .error k)
    | (r2, none) => r2.fpFields
  else (r1, .error .invalidFraming)

/-- The response of a parse: tag and inner payload, or the error with `raw` (R123, R217). -/
def State.answerParse (s : State) (raw : Bytes)
    (p : RxAgent × Except ErrorKind (Byte × Bytes)) : State :=
  match p.2 with
  | .ok (tag, payload) => { s with rx := p.1 }.respond .rx (.parsed tag payload)
  | .error k => s.raiseRx p.1 k raw

/-- `FRAME.PARSE` (R123), by its realisation (R124). -/
def execFrameParse (s : State) : Answer :=
  .next (s.answerParse s.rxA (s.rx.begin.fpRun s.rxA))

end Sys2Proof.Machine
end

