-- ==== Sys2Proof/Machine/AckDecode.lean ====
section
/-! DEFINITION. The response decoder (46_response.md): `ACK.DECODE`. -/

namespace Sys2Proof.Machine

/-- The status check of R175: a status other than 0 raises `DeviceReportedError`, which carries the
fields (R205). -/
def State.answerAck (s : State) (raw : Bytes) (f : AckFields) : State :=
  if f.status = STATUS_OK then s.respond .rx (.ack f)
  else s.raise .rx .deviceReportedError (some raw) (some f)

/-- A message is parsed, its content read as an Ack, and the fields are the response (R175). -/
def State.decodeAndRespond (s : State) (message : Bytes) : State :=
  let p := s.rx.begin.fpRun message
  match p.2.bind fun r => ackFields (r.1 :: r.2) with
  | .error k => s.raiseRx p.1 k message
  | .ok f => { s with rx := p.1 }.answerAck message f

/-- `ACK.DECODE` (R175). -/
def execAckDecode (s : State) : Answer := .next (s.decodeAndRespond s.rxA)

end Sys2Proof.Machine
end

