-- ==== Sys2Proof/Machine/Bitmap.lean ====
section
/-! DEFINITION. The bitmap packer `BP` and the Text-payload unit `TP` (44_bitmap.md): `BMP.PACK` and
`TEXT.PAYLOAD`. -/

namespace Sys2Proof.Machine

/-! ### `BP` (R153) -/

/-- The registers at the start of `BMP.PACK` (R32). -/
def TxAgent.bpStart (t : TxAgent) : TxAgent :=
  { t with bpChan := 0, bpX := 0, bpRow := 0, bpColWord := 0 }

/-- One row: the pixel is read and its bit shifted in (R153). -/
def TxAgent.bpShift (m : Memory) (t : TxAgent) (row : Nat) : TxAgent :=
  let p := Raster m t.bpX.toNat row t.bpChan.toNat
  { t with
    bpRow := BitVec.ofNat 4 row
    bpColWord := (t.bpColWord <<< 1) ||| (if isLit p then 1 else 0) }

/-- A column word goes out, most significant byte first (R153). -/
def TxAgent.bpEmit (t : TxAgent) : TxAgent :=
  (t.emit (t.bpColWord.extractLsb' 8 8)).emit (t.bpColWord.extractLsb' 0 8)

/-- One column: cleared, sixteen rows, emitted (R153). -/
def TxAgent.bpColumn (m : Memory) (t : TxAgent) (x : Nat) : TxAgent :=
  ((List.range ROWS).foldl (TxAgent.bpShift m) { t with bpX := half x, bpColWord := 0 }).bpEmit

/-- One channel: every column in rising order (R153). -/
def TxAgent.bpChannel (m : Memory) (width : Nat) (t : TxAgent) (c : Nat) : TxAgent :=
  (List.range width).foldl (TxAgent.bpColumn m) { t with bpChan := BitVec.ofNat 2 c }

/-- The realisation after the height check; the bitmap is left in the open buffer (R153). -/
def TxAgent.bpRun (t : TxAgent) (m : Memory) (width : Nat) : TxAgent :=
  (List.range CHANNELS).foldl (TxAgent.bpChannel m width) t.bpStart

/-- `BMP.PACK` (R150): the height is checked before any pixel is read. -/
def execBmpPack (s : State) : Answer :=
  if s.tx.lat.height.toNat ≠ ROWS then .next (s.raiseTx s.tx .unsupportedHeight)
  else .next (s.respondBuffer (s.tx.begin.bpRun s.raster s.tx.lat.width.toNat).close)

/-! ### `TP` (R156) -/

/-- A byte of the running phase goes out and is counted down. -/
def TxAgent.tpEmit (t : TxAgent) (b : Byte) : TxAgent := { t.emit b with tpCnt := t.tpCnt - 1 }

/-- A phase: `TP.phase` and `TP.cnt` are set and its bytes go out. -/
def TxAgent.tpPhaseRun (t : TxAgent) (phase : TpPhase) (bytes : Bytes) : TxAgent :=
  bytes.foldl TxAgent.tpEmit { t with tpPhase := phase, tpCnt := half bytes.length }

/-- The phases of R156 in their order; the Text payload is left in the open buffer. -/
def TxAgent.tpRun (t : TxAgent) (bitmap caption : Bytes) : TxAgent :=
  let n := half bitmap.length
  let t1 := t.tpPhaseRun .reserved (List.replicate TEXT_RESERVED 0)
  let t2 := t1.tpPhaseRun .capLen [BitVec.ofNat 8 caption.length]
  let t3 := t2.tpPhaseRun .caption caption
  let t4 := t3.tpPhaseRun .pad (List.replicate (CAPTION_MAX - caption.length) 0)
  let t5 := t4.tpPhaseRun .bmLenHi [n.extractLsb' 8 8]
  let t6 := t5.tpPhaseRun .bmLenLo [n.extractLsb' 0 8]
  let t7 := t6.tpPhaseRun .bitmap bitmap
  { t7 with tpPhase := .done, tpCnt := 0 }

/-- The checks of R154 in their order: the error they raise, if any. -/
def textError (bitmap caption : Bytes) : Option ErrorKind :=
  if CAPTION_MAX < caption.length then some .captionTooLong
  else if FIELD_MAX < bitmap.length then some .fieldOverflow
  else none

/-- Wrapping a bitmap and answering with the Text payload (R154, R156). -/
def State.wrapAndRespond (s : State) (bitmap caption : Bytes) : State :=
  match textError bitmap caption with
  | some k => s.raiseTx s.tx k
  | none => s.respondBuffer (s.tx.begin.tpRun bitmap caption).close

/-- `TEXT.PAYLOAD` (R154). -/
def execTextPayload (s : State) : Answer := .next (s.wrapAndRespond s.txA s.txB)

end Sys2Proof.Machine
end

