-- ==== Sys2Proof/Machine/Checksum.lean ====
section
/-! DEFINITION. The checksum accumulator, unit `XS` (41_checksum.md R112), and `XSUM`. -/

namespace Sys2Proof.Machine

/-- clear: `XS.acc <- XSUM_SEED` -/
def TxAgent.xsClear (t : TxAgent) : TxAgent := { t with xsAcc := XSUM_SEED }

/-- absorb `b`: `XS.acc <- XS.acc ^ b` -/
def TxAgent.xsAbsorb (t : TxAgent) (b : Byte) : TxAgent := { t with xsAcc := t.xsAcc ^^^ b }

/-- `XSUM` (R110): clear, absorb each byte of `A`, read (R112). -/
def execXsum (s : State) : Answer :=
  let t := s.txA.foldl TxAgent.xsAbsorb s.tx.begin.xsClear
  .next ({ s with tx := t }.respond .tx (.byte t.xsAcc))

end Sys2Proof.Machine
end

