-- ==== Sys2Proof/Machine/Subpacket.lean ====
section
/-! DEFINITION. The sub-packet formatter and stream segmenter, unit `SP` (43_subpacket.md):
`SUBPKT.FMT` and `STREAM.SEND`. -/

namespace Sys2Proof.Machine

/-- `put(b)`: emit and absorb (R136). -/
def TxAgent.put (t : TxAgent) (b : Byte) : TxAgent := (t.emit b).xsAbsorb b

/-- `put` of both bytes of a field, high byte first (R136). -/
def TxAgent.putHalf (t : TxAgent) (v : Half) : TxAgent :=
  (t.put (v.extractLsb' 8 8)).put (v.extractLsb' 0 8)

/-- The registers are loaded and a buffer of its own is opened (R136). -/
def TxAgent.spLoad (t : TxAgent) (total index : Half) (chunk : Bytes) : TxAgent :=
  { t with
    out := [], spTotalLen := total, spSeqIdx := index, spClen := BitVec.ofNat 8 chunk.length }.xsClear

/-- One sub-packet, left in the open buffer (R136). The checksum byte is not absorbed. -/
def TxAgent.spForm (t : TxAgent) (total index : Half) (chunk : Bytes) : TxAgent :=
  let t1 := t.spLoad total index chunk
  let t2 := t1.put SUBPKT_LEAD
  let t3 := t2.putHalf t2.spTotalLen
  let t4 := t3.putHalf t3.spSeqIdx
  let t5 := t4.put t4.spClen
  let t6 := chunk.foldl TxAgent.put t5
  t6.emit t6.xsAcc

/-- Formatting a sub-packet and answering with it (R135, R136). -/
def State.formatAndRespond (s : State) (total index : Half) (chunk : Bytes) : State :=
  if MAX_CHUNK < chunk.length then s.raiseTx s.tx .fieldOverflow
  else s.respondBuffer (s.tx.begin.spForm total index chunk).close

/-- `SUBPKT.FMT` (R135). -/
def execSubpktFmt (s : State) : Answer :=
  .next (s.formatAndRespond s.tx.lat.totalLen s.tx.lat.index s.txA)

/-- The stream's registers at its start (R139). -/
def TxAgent.spStart (t : TxAgent) (len : Nat) : TxAgent :=
  { t with spTotalLen := half len, spSeqIdx := 0, spOff := 0 }

/-- The chunk length of the next sub-packet: `min(128, SP.total_len - SP.off)` (R139). -/
def TxAgent.spNextLen (t : TxAgent) : Nat := min MAX_CHUNK (t.spTotalLen.toNat - t.spOff.toNat)

/-- One round of R139's loop: a sub-packet is formed and framed, and the registers advance. -/
def TxAgent.spRound (t : TxAgent) (tag : Byte) (a : Bytes) : TxAgent :=
  let n := t.spNextLen
  let t1 := t.spForm t.spTotalLen t.spSeqIdx ((a.drop t.spOff.toNat).take n)
  let t2 := t1.fbRun tag t1.out
  { t2 with spOff := t2.spOff + half n, spSeqIdx := t2.spSeqIdx + 1 }

/-- R139's loop. Each round sends at least one byte, so `fuel` = the stream's length is enough. -/
def TxAgent.spLoop (tag : Byte) (a : Bytes) : Nat → TxAgent → TxAgent
  | 0, t => t
  | fuel + 1, t =>
    if t.spOff.toNat < t.spTotalLen.toNat then (t.spRound tag a).spLoop tag a fuel else t

/-- `STREAM.SEND`'s realisation after its length check (R139). -/
def TxAgent.spRun (t : TxAgent) (tag : Byte) (a : Bytes) : TxAgent :=
  (t.spStart a.length).spLoop tag a a.length

/-- Sending a stream from the agent state `t` and answering with its frames (R137). -/
def State.streamAndRespond (s : State) (t : TxAgent) (tag : Byte) (a : Bytes) : State :=
  if FIELD_MAX < a.length then s.raiseTx t .fieldOverflow
  else s.respondBuffers (t.begin.spRun tag a)

/-- `STREAM.SEND` (R137). -/
def execStreamSend (s : State) : Answer := .next (s.streamAndRespond s.tx s.tx.lat.tag s.txA)

end Sys2Proof.Machine
end

