-- ==== Sys2Proof/Machine/Commands.lean ====
section
/-! DEFINITION. The command composers (45_commands.md): `CMD.TEXT` and `CMD.MODE`. -/

namespace Sys2Proof.Machine

/-- `CMD.TEXT` after the height check: the bitmap is packed, wrapped and streamed, each result handed
to the next unit by value (R83, R165). -/
def State.composeText (s : State) : State :=
  let packed := s.tx.begin.bpRun s.raster s.tx.lat.width.toNat
  match textError packed.out s.txB with
  | some k => s.raiseTx packed k
  | none =>
    let wrapped := packed.begin.tpRun packed.out s.txB
    s.streamAndRespond wrapped TAG_TEXT wrapped.out

/-- `CMD.TEXT` (R165): `UnsupportedHeight`, then `CaptionTooLong`, then `FieldOverflow` (R215). -/
def execCmdText (s : State) : Answer :=
  if s.tx.lat.height.toNat ≠ ROWS then .next (s.raiseTx s.tx .unsupportedHeight)
  else .next s.composeText

/-- `CMD.MODE` (R167): the mode byte is framed directly and not checked. -/
def execCmdMode (s : State) : Answer := .next (s.buildAndRespond TAG_MODE [s.tx.lat.mode])

/-- A request with a reserved or misplaced `op` (R79, R212). -/
def execReservedOp (port : Agent) (_op : BitVec 4) (s : State) : Answer := .next (s.refuse port)

end Sys2Proof.Machine
end

