-- ==== Sys2Proof/Machine/CodePoints.lean ====
section
/-! DEFINITION. The wire code points of the opcode table (30_encoding.md R61 to R70). No request issues
one by itself: each is given here as the line of the sequential realisation that writes it (`TX`) or
reads it (`RX`), on the registers and the open buffer as they stand. DESIGN CHOICE (log 7). -/

namespace Sys2Proof.Machine

/-! ### One byte received by `FP` -/

/-- A byte of a message arrives: it is kept in `FP.buf` and goes through the `UE` step, whose bytes go
to `FP.body` (R104, R124); none where the step raises `InvalidEscape`. -/
def RxAgent.fpByte (r : RxAgent) (b : Byte) : Option RxAgent :=
  (ueStep r.uePending b).map fun p =>
    { r with fpBuf := r.fpBuf ++ [b], uePending := p.1, fpBody := r.fpBody ++ p.2 }

/-- Bytes of a message arrive one after the other; the error carries what has been received (R217). -/
def State.receive : State → Bytes → State
  | s, [] => s
  | s, b :: rest =>
    match s.rx.fpByte b with
    | some r => { s with rx := r }.receive rest
    | none => s.raiseRx s.rx .invalidEscape (s.rx.fpBuf ++ [b])

/-! ### Escape pairs and plain bytes (R61, R73) -/

/-- The body byte `b` written by `EE`, or its wire bytes read by `UE`. -/
def State.bodyByte (s : State) (side : Agent) (b : Byte) (wire : Bytes) : State :=
  match side with
  | .tx => { s with tx := s.tx.escEmit b }
  | .rx => s.receive wire

/-- `PAIR.01` (R61): `02 05` stands for `01`. -/
def execPair01 (side : Agent) (s : State) : Answer := .next (s.bodyByte side 0x01 [0x02, 0x05])

/-- `PAIR.02` (R61): `02 06` stands for `02`. -/
def execPair02 (side : Agent) (s : State) : Answer := .next (s.bodyByte side 0x02 [0x02, 0x06])

/-- `PAIR.03` (R61): `02 07` stands for `03`. -/
def execPair03 (side : Agent) (s : State) : Answer := .next (s.bodyByte side 0x03 [0x02, 0x07])

/-- `PAIR.LENIENT` (R73): `02 s` on receipt. -/
def execPairLenient (second : Byte) (s : State) : Answer := .next (s.receive [ESC_BYTE, second])

/-- `PLAIN` (R61): a byte that stands for itself. -/
def execPlain (side : Agent) (b : Byte) (s : State) : Answer := .next (s.bodyByte side b [b])

/-! ### Markers and frames (R62) -/

/-- `SOF` (R62). `TX`: a frame's buffer is opened and line `SOF` of R122 runs. `RX`: a message begins,
`FP.buf` holds its first byte, `FP.body` is empty and `UE.esc_pending` 0 (R124). -/
def execSof (side : Agent) (s : State) : Answer :=
  match side with
  | .tx => .next { s with tx := { s.tx with out := [], fbPhase := .sof }.fbSof }
  | .rx => .next { s with rx := { s.rx with fpBuf := [SOF], fpBody := [], uePending := false } }

/-- The message in `FP.buf` has ended: the marker check, the end-of-input check of R104, and phase 3
of R124. -/
def RxAgent.fpEnd (r : RxAgent) : RxAgent × Except ErrorKind (Byte × Bytes) :=
  if markersOk r.fpBuf then
    if r.uePending then (r, .error .truncatedEscape) else r.fpFields
  else (r, .error .invalidFraming)

/-- `EOF` (R62). `TX`: line `EOF` of R122, which delivers the buffer. `RX`: the message's last byte
arrives; its checks and its response. -/
def execEof (side : Agent) (s : State) : Answer :=
  match side with
  | .tx => .next { s with tx := s.tx.fbEof }
  | .rx =>
    let r := { s.rx with fpBuf := s.rx.fpBuf ++ [EOF] }
    .next (s.answerParse r.fpBuf r.fpEnd)

/-- `FRAME` (R62). `TX`: the frame is built and delivered. `RX`: it is received as one message and
parsed. -/
def execFrame (side : Agent) (tag : Byte) (payload : Bytes) (s : State) : Answer :=
  match side with
  | .tx => .next (s.buildAndRespond tag payload)
  | .rx =>
    .next (s.answerParse (frameBytes tag payload) (s.rx.begin.fpRun (frameBytes tag payload)))

/-! ### Tags and modes (R67, R69, R70) -/

/-- `TAG.TEXT` (R69): line `TAG` of R122. -/
def execTagText (s : State) : Answer := .next { s with tx := s.tx.fbTag TAG_TEXT }

/-- `TAG.MODE` (R69): line `TAG` of R122. -/
def execTagMode (s : State) : Answer := .next { s with tx := s.tx.fbTag TAG_MODE }

/-- The mode byte is the whole inner payload (R67): one byte to emit, then line `PAY` of R122. -/
def State.modeByte (s : State) (mode : Byte) : State :=
  { s with tx := { s.tx with fbCnt := 1 }.fbPay mode }

/-- `MODE.1` static (R70). -/
def execMode1 (s : State) : Answer := .next (s.modeByte 1)

/-- `MODE.2` scroll-left (R70). -/
def execMode2 (s : State) : Answer := .next (s.modeByte 2)

/-- `MODE.3` scroll-right (R70). -/
def execMode3 (s : State) : Answer := .next (s.modeByte 3)

/-- `MODE.4` scroll-up (R70). -/
def execMode4 (s : State) : Answer := .next (s.modeByte 4)

/-- `MODE.5` scroll-down (R70). -/
def execMode5 (s : State) : Answer := .next (s.modeByte 5)

/-- `MODE.6` snowflake (R70). -/
def execMode6 (s : State) : Answer := .next (s.modeByte 6)

/-- `MODE.7` picture (R70). -/
def execMode7 (s : State) : Answer := .next (s.modeByte 7)

/-- `MODE.8` laser (R70). -/
def execMode8 (s : State) : Answer := .next (s.modeByte 8)

/-- `MODE` (R67): the Mode payload is the whole inner payload of a frame with tag `TAG_MODE`. -/
def execModePayload (mode : Byte) (s : State) : Answer := .next (s.buildAndRespond TAG_MODE [mode])

/-! ### Sub-packet, column word, Text payload (R64, R65, R66) -/

/-- `SUBPKT` (R64): the sub-packet with these fields. -/
def execSubpkt (total index : Half) (chunk : Bytes) (s : State) : Answer :=
  .next (s.formatAndRespond total index chunk)

/-- `BITMAP.COLUMN` (R65): the word in `BP.col_word` goes out, most significant byte first. -/
def execBitmapColumn (word : Half) (s : State) : Answer :=
  .next { s with tx := { s.tx with bpColWord := word }.bpEmit }

/-- `TEXT` (R66): the Text payload with these fields. -/
def execText (caption bitmap : Bytes) (s : State) : Answer := .next (s.wrapAndRespond bitmap caption)

/-! ### Acknowledgements (R68) -/

/-- `ACK` (R68): the message that carries this content arrives and is decoded (R175). -/
def execAck (ackType ackId : Byte) (seq : Half) (status : Byte) (s : State) : Answer :=
  .next (s.decodeAndRespond (ackMessage ⟨ackType, ackId, seq, status⟩))

/-- `STATUS.OK` (R68): the status byte 0 arrives; it raises nothing. -/
def execStatusOk (s : State) : Answer := .next (s.receive [STATUS_OK])

end Sys2Proof.Machine
end

