-- ==== Sys2Proof/Machine/Dispatch.lean ====
section
/-! DEFINITION. One arm for each constructor of Instr, each one direct call of its meaning. -/

namespace Sys2Proof.Machine

def exec (i : Instr) (s : State) : Host.Outcome State Fault Refusal :=
  match i with
  | .esc => Sys2Proof.Machine.execEsc s
  | .unesc => Sys2Proof.Machine.execUnesc s
  | .xsum => Sys2Proof.Machine.execXsum s
  | .frameBuild => Sys2Proof.Machine.execFrameBuild s
  | .frameParse => Sys2Proof.Machine.execFrameParse s
  | .ackDecode => Sys2Proof.Machine.execAckDecode s
  | .subpktFmt => Sys2Proof.Machine.execSubpktFmt s
  | .streamSend => Sys2Proof.Machine.execStreamSend s
  | .bmpPack => Sys2Proof.Machine.execBmpPack s
  | .textPayload => Sys2Proof.Machine.execTextPayload s
  | .cmdText => Sys2Proof.Machine.execCmdText s
  | .cmdMode => Sys2Proof.Machine.execCmdMode s
  | .reservedOp port op => Sys2Proof.Machine.execReservedOp port op s
  | .pair01 side => Sys2Proof.Machine.execPair01 side s
  | .pair02 side => Sys2Proof.Machine.execPair02 side s
  | .pair03 side => Sys2Proof.Machine.execPair03 side s
  | .pairLenient second => Sys2Proof.Machine.execPairLenient second s
  | .plain side b => Sys2Proof.Machine.execPlain side b s
  | .sof side => Sys2Proof.Machine.execSof side s
  | .eof side => Sys2Proof.Machine.execEof side s
  | .frame side tag payload => Sys2Proof.Machine.execFrame side tag payload s
  | .tagText => Sys2Proof.Machine.execTagText s
  | .tagMode => Sys2Proof.Machine.execTagMode s
  | .mode1 => Sys2Proof.Machine.execMode1 s
  | .mode2 => Sys2Proof.Machine.execMode2 s
  | .mode3 => Sys2Proof.Machine.execMode3 s
  | .mode4 => Sys2Proof.Machine.execMode4 s
  | .mode5 => Sys2Proof.Machine.execMode5 s
  | .mode6 => Sys2Proof.Machine.execMode6 s
  | .mode7 => Sys2Proof.Machine.execMode7 s
  | .mode8 => Sys2Proof.Machine.execMode8 s
  | .subpkt total index chunk => Sys2Proof.Machine.execSubpkt total index chunk s
  | .bitmapColumn word => Sys2Proof.Machine.execBitmapColumn word s
  | .text caption bitmap => Sys2Proof.Machine.execText caption bitmap s
  | .modePayload mode => Sys2Proof.Machine.execModePayload mode s
  | .ack ackType ackId seq status => Sys2Proof.Machine.execAck ackType ackId seq status s
  | .statusOk => Sys2Proof.Machine.execStatusOk s

end Sys2Proof.Machine
end

