-- ==== Sys2Proof/Machine/Fetch.lean ====
section
/-! DEFINITION. Where the next instruction comes from. The block fetches nothing (10_state.md R23): the
outside presents requests (and, log 7, code points), takes responses, presents rasters and drives
`rst`; the step serves the first event in arrival order that can be served. -/

namespace Sys2Proof.Machine

/-- Whether an event can be served now. What needs an agent waits until that agent is idle and its
response taken, without holding up the other agent (R240); the rest can always be served. -/
def Input.served (s : State) : Input → Bool
  | .txRequest _ | .txCutShort _ _ => s.ready .tx
  | .rxRequest _ | .rxCutShort _ => s.ready .rx
  | .wire _ side _ => s.ready side
  | .starve port | .unstable port => s.ready port
  | .take _ | .raster _ | .reset => true

/-- The first event that can be served, and the others in their order. -/
def pick (s : State) : List Input → Option (Input × List Input)
  | [] => none
  | i :: rest =>
    if i.served s then some (i, rest)
    else (pick s rest).map fun p => (p.1, i :: p.2)

/-- A `TX` request is accepted or refused, and its operation runs (R76, R79). -/
def State.runTx (s : State) (r : TxLatches) : Answer := exec (decodeOp .tx r.op) (s.acceptTx r)

/-- An `RX` request is accepted or refused, and its operation runs (R76, R79). -/
def State.runRx (s : State) (r : RxLatches) : Answer := exec (decodeOp .rx r.op) (s.acceptRx r)

/-- A code point of a format runs, if the bytes are one. An operation select is none: no latch is read
without a request that loads it (R36). -/
def State.runWire (s : State) (f : Format) (side : Agent) (bytes : Bytes) : Answer :=
  if f = .request then .refused (.notACodePoint .requestWord)
  else
    match decode f side bytes with
    | .ok i => exec i s
    | .error e => .refused (.notACodePoint e)

/-- `rst` during an operation that would end in `done`, started in `s` (R231): no response, every
register at its reset value; of the operation's frames the first `k` have been delivered and stay
delivered. R231 says so of `STREAM.SEND` and `CMD.TEXT` by name, V2 of the frames of any operation: that
`FRAME.BUILD` and `CMD.MODE` keep their one frame (`k` at least 1) is a DESIGN CHOICE (log 25), unsafe. -/
def State.cutShort (s done : State) (k : Nat) : State :=
  let frames := done.tx.sent.drop s.tx.sent.length
  { s with tx := { s.tx with sent := s.tx.sent ++ frames.take k } }.rst

/-- One event is served. -/
def serve (s : State) : Input → Answer
  | .txRequest r => s.runTx r
  | .rxRequest r => s.runRx r
  | .wire f side bytes => s.runWire f side bytes
  | .take port => .next (s.take port)
  | .raster pixels => .next { s with raster := rasterOf pixels }
  | .starve port => .next (s.starve port)
  | .unstable port => .refused (.operandsChanged port)
  | .reset => .next s.rst
  | .txCutShort r k =>
    match s.runTx r with
    | .next done => .next (s.cutShort done k)
    | .fault e => .fault e
    | .refused e => .refused e
  | .rxCutShort _ => .next s.rst

/-- The step: the first event that can be served is served; with none the block is unchanged, idle or
waiting (R240, 93 V3). -/
def stepOnce (s : State) : Answer :=
  match pick s s.inputs with
  | none => .next s
  | some (i, rest) => serve { s with inputs := rest } i

/-- The agent of a port is idle with no response pending. -/
def State.free (s : State) (port : Agent) : State :=
  match port with
  | .tx => { s with tx := { s.tx with busy := false, resp := none } }
  | .rx => { s with rx := { s.rx with busy := false, resp := none } }

/-- The event that presents an encoded word; a request comes with operands of zeros. -/
def inputOf (e : Encoded) : Input :=
  match e.format, e.side, e.bytes with
  | .request, .tx, [b] => .txRequest { TxLatches.reset with op := b.extractLsb' 0 4 }
  | .request, .rx, [b] => .rxRequest { RxLatches.reset with op := b.extractLsb' 0 4 }
  | f, side, bytes => .wire f side bytes

/-- `s` with an encoded word presented before everything else, its agent free to accept it. -/
def State.present (s : State) (e : Encoded) : State :=
  let s1 := s.free e.side
  { s1 with inputs := inputOf e :: s1.inputs }

end Sys2Proof.Machine
end

