-- ==== Sys2Proof/Machine/Step.lean ====
section
/-! DEFINITION. The step, and placing an instruction where the step takes its next one. -/

namespace Sys2Proof.Machine

/-- One step of the machine: one event of the outside served (Machine/Fetch.lean). -/
def step (s : State) : Host.Outcome State Fault Refusal := stepOnce s

/-- `s` with the opcode table's word presented at its agent's port before every other event, that
agent idle with no response pending; a request's operands are zeros (log 9). A word the decoder does
not read changes nothing. -/
def State.withFetchWord (s : State) (nbits w : Nat) : State :=
  match tableWord nbits w with
  | some e => s.present e
  | none => s

end Sys2Proof.Machine
end

