-- ==== Sys2Proof/Safety.lean ====
section
/-! DEFINITION. The terms the statements are made in: responses as functions of a normative result,
well-built frames, legal responses and the invariant of the machine. -/

namespace Sys2Proof.Machine

/-- The response of a `TX` operation with this outcome; encode errors carry nothing (R78, R201). -/
def encodeResponse : Except ErrorKind Result → Response
  | .ok r => Response.ok r
  | .error k => Response.error k none none

/-- The response of an `RX` operation on the input `raw` with this outcome (R78, R217). -/
def decodeResponse (raw : Bytes) : Except ErrorKind Result → Response
  | .ok r => Response.ok r
  | .error k => Response.error k (some raw) none

/-- The response of `ACK.DECODE` on the input `raw`: a status other than 0 is an error that carries
the fields (R175, R205). -/
def ackResponse (raw : Bytes) : Except ErrorKind AckFields → Response
  | .ok f =>
    if f.status = STATUS_OK then Response.ok (.ack f)
    else Response.error .deviceReportedError (some raw) (some f)
  | .error k => Response.error k (some raw) none

/-- The response at a port, if one is pending. -/
def State.respAt (s : State) : Agent → Option Response
  | .tx => s.tx.resp
  | .rx => s.rx.resp

/-- The side an instruction belongs to. -/
def Instr.side (i : Instr) : Agent := (encode i).side

/-- The instruction is a request, not a code point. -/
def Instr.isRequest (i : Instr) : Bool := decide ((encode i).format = .request)

/-- What a frame the block builds looks like on the wire (R121): the start marker exactly once, as its
first byte, and the end marker exactly once, as its last. -/
def ProperFrame (f : Bytes) : Prop :=
  ∃ mid : Bytes, f = [SOF] ++ mid ++ [EOF] ∧ SOF ∉ mid ∧ EOF ∉ mid

/-- A response `TX` can give (R78, R201): the status of success or of an encode-side or request error,
a result exactly with success, never `raw`. -/
def Response.legalTx (r : Response) : Prop :=
  (r.status = 0 ∨ r.status = 5 ∨ r.status = 6 ∨ r.status = 10 ∨ r.status = 11) ∧
    (r.result.isSome ↔ r.status = 0) ∧ r.raw = none

/-- A response `RX` can give (R78, R201): the status of success or of a decode-side or request error, a
result exactly with success and `DeviceReportedError`, `raw` exactly with a decode error. -/
def Response.legalRx (r : Response) : Prop :=
  (r.status = 0 ∨ r.status = 1 ∨ r.status = 2 ∨ r.status = 3 ∨ r.status = 4 ∨ r.status = 8 ∨
      r.status = 9 ∨ r.status = 11) ∧
    (r.result.isSome ↔ r.status = 0 ∨ r.status = 4) ∧
    (r.raw.isSome ↔ r.status ≠ 0 ∧ r.status ≠ 11)

/-- The ranges of the `TX` registers (R31, R32) and its response. -/
def TxAgent.Inv (t : TxAgent) : Prop :=
  t.bpChan.toNat < CHANNELS ∧ t.spClen.toNat ≤ MAX_CHUNK ∧ ∀ r, t.resp = some r → r.legalTx

/-- The invariant of the machine: registers in the ranges 10_state.md gives them, every pending
response one its agent can give, the raster's cells in canonical form. -/
def Inv (s : State) : Prop :=
  s.tx.Inv ∧ (∀ r, s.rx.resp = some r → r.legalRx) ∧ s.raster.wf = true

end Sys2Proof.Machine
end

