-- ==== Sys2Proof/Certificates/Slice0/Obligations.lean ====
section
/-! DEFINITION. The statements for the provers, each formalising the rules its entry in
OBLIGATIONS.json cites. -/

open Sys2Proof Sys2Proof.Machine

/-! ### Encodings -/

/-- Decoding an encoded well-formed instruction gives it back: every row, every field at every value
its format admits. -/
def Obligations.DecodeReadsWhatEncodeWrites : Prop :=
  ∀ i : Instr, i.wf = true → (encode i).decode = .ok i

/-- What the decoder accepts is well-formed and is exactly the encoding of what it answers. -/
def Obligations.DecodeAcceptsOnlyEncodings : Prop :=
  ∀ (f : Format) (side : Agent) (bytes : Bytes) (i : Instr),
    decode f side bytes = .ok i → i.wf = true ∧ encode i = ⟨f, side, bytes⟩

/-- Words written out from the spec's tables: R76's codes, the pairs of R61, a lenient pair (R73), the
markers (R62), the tags (R69), a mode (R70), the least frame (R9) and an Ack's content (R68). -/
def Obligations.WordsOfTheSpecDecode : Prop :=
  decode .request .tx [0x07] = .ok .streamSend ∧
  decode .request .rx [0x05] = .ok .ackDecode ∧
  decode .request .rx [0x0D] = .ok (.reservedOp .rx 13) ∧
  decode .escapePair .rx [0x02, 0x05] = .ok (.pair01 .rx) ∧
  decode .escapePair .tx [0x02, 0x07] = .ok (.pair03 .tx) ∧
  decode .escapePair .rx [0x02, 0x04] = .ok (.pairLenient 4) ∧
  decode .marker .rx [0x01] = .ok (.sof .rx) ∧
  decode .marker .tx [0x03] = .ok (.eof .tx) ∧
  decode .tag .tx [0x06] = .ok .tagMode ∧
  decode .mode .tx [0x08] = .ok .mode8 ∧
  decode .frame .rx [0x01, 0x00, 0x02, 0x05, 0x09, 0x03] = .ok (.frame .rx 9 []) ∧
  decode .ackContent .rx [0x02, 0x00, 0x00, 0x01, 0x05] = .ok (.ack 2 0 1 5)

/-- Every operation code on every port: its operation on its own agent's port, the refused request
anywhere else. -/
def Obligations.OperationCodesBelongToOnePort : Prop :=
  (∀ (port : Agent) (op : BitVec 4),
      decodeOp port op = .reservedOp port op ↔ opOwner op ≠ some port) ∧
    (∀ op : BitVec 4, 12 ≤ op.toNat → opOwner op = none) ∧
    [decodeOp .tx 0x0, decodeOp .rx 0x1, decodeOp .tx 0x2, decodeOp .tx 0x3, decodeOp .rx 0x4,
        decodeOp .rx 0x5, decodeOp .tx 0x6, decodeOp .tx 0x7, decodeOp .tx 0x8, decodeOp .tx 0x9,
        decodeOp .tx 0xA, decodeOp .tx 0xB] =
      [.esc, .unesc, .xsum, .frameBuild, .frameParse, .ackDecode, .subpktFmt, .streamSend, .bmpPack,
        .textPayload, .cmdText, .cmdMode]

/-! ### The step -/

/-- When the first event is a request its agent can accept, the step latches its operands (unless the
request is refused) and is `exec` of the operation the decoder reads from its code. -/
def Obligations.StepRunsTheDecodedRequest : Prop :=
  ∀ (s : State) (rest : List Input),
    (∀ r : TxLatches, s.inputs = .txRequest r :: rest → s.tx.busy = false → s.tx.resp = none →
      step s = exec (decodeOp .tx r.op)
        (if opOwner r.op = some .tx then { s with inputs := rest, tx := { s.tx with lat := r } }
          else { s with inputs := rest })) ∧
    (∀ r : RxLatches, s.inputs = .rxRequest r :: rest → s.rx.busy = false → s.rx.resp = none →
      step s = exec (decodeOp .rx r.op)
        (if opOwner r.op = some .rx then { s with inputs := rest, rx := { s.rx with lat := r } }
          else { s with inputs := rest }))

/-- The same for a code point: when the bytes decode to an instruction, the step is `exec` of it; when
they do not, the step refuses by name, and so it does for an operation select, which only a request
carries. The code-point events are the model's own (log 7). -/
def Obligations.StepRunsTheDecodedCodePoint : Prop :=
  ∀ (s : State) (rest : List Input) (f : Format) (side : Agent) (bytes : Bytes),
    s.inputs = .wire f side bytes :: rest → s.ready side = true →
      (∀ i, f ≠ .request → decode f side bytes = .ok i → step s = exec i { s with inputs := rest }) ∧
      (∀ e, f ≠ .request → decode f side bytes = .error e → step s = .refused (.notACodePoint e)) ∧
      (f = .request → step s = .refused (.notACodePoint .requestWord))

/-- A request is served exactly when its agent runs nothing and its last response is taken (R240);
taking a response, presenting a raster and `rst` are served at any time. A request `w` whose agent is
busy or whose response is untaken waits: it stays in `inputs`, and the step serves the next event that
can be served, be it a response taken, a request of the other agent, or any event behind further
waiting ones; with nothing behind it the step changes nothing. -/
def Obligations.RequestToABusyAgentWaits : Prop :=
  (∀ (s : State) (r : TxLatches),
    Input.served s (.txRequest r) = true ↔ s.tx.busy = false ∧ s.tx.resp = none) ∧
  (∀ (s : State) (r : RxLatches),
    Input.served s (.rxRequest r) = true ↔ s.rx.busy = false ∧ s.rx.resp = none) ∧
  (∀ (s : State) (port : Agent) (pixels : List Pixel), Input.served s (.take port) = true ∧
    Input.served s (.raster pixels) = true ∧ Input.served s .reset = true) ∧
  ∀ (s : State) (w : Input),
    ((∃ r, w = .txRequest r) ∧ (s.tx.busy = true ∨ s.tx.resp ≠ none)) ∨
      ((∃ r, w = .rxRequest r) ∧ (s.rx.busy = true ∨ s.rx.resp ≠ none)) →
    (s.inputs = [w] → step s = .next s) ∧
    (∀ rest, s.inputs = w :: .take .tx :: rest →
      step s = .next { s with inputs := w :: rest, tx := { s.tx with resp := none } }) ∧
    (∀ rest, s.inputs = w :: .take .rx :: rest →
      step s = .next { s with inputs := w :: rest, rx := { s.rx with resp := none } }) ∧
    (∀ r rest, s.inputs = w :: .txRequest r :: rest → s.tx.busy = false → s.tx.resp = none →
      step s = exec (decodeOp .tx r.op)
        (if opOwner r.op = some .tx then
            { s with inputs := w :: rest, tx := { s.tx with lat := r } }
          else { s with inputs := w :: rest })) ∧
    (∀ r rest, s.inputs = w :: .rxRequest r :: rest → s.rx.busy = false → s.rx.resp = none →
      step s = exec (decodeOp .rx r.op)
        (if opOwner r.op = some .rx then
            { s with inputs := w :: rest, rx := { s.rx with lat := r } }
          else { s with inputs := w :: rest })) ∧
    ∀ (waiting : List Input) (i : Input) (rest : List Input),
      s.inputs = w :: (waiting ++ i :: rest) → (∀ j ∈ waiting, j.served s = false) →
      i.served s = true → step s = serve { s with inputs := w :: (waiting ++ rest) } i

/-- With nothing that can be served the step changes nothing: an idle block, or one that waits for the
caller for ever (93 V3). -/
def Obligations.NothingToServeChangesNothing : Prop :=
  ∀ s : State, (∀ i ∈ s.inputs, i.served s = false) → step s = .next s

/-- Taking a response frees its agent and nothing else; the other agent's port does not matter. -/
def Obligations.TakingAResponseFreesTheAgent : Prop :=
  ∀ (s : State) (rest : List Input),
    (s.inputs = .take .tx :: rest →
      step s = .next { s with inputs := rest, tx := { s.tx with resp := none } }) ∧
    (s.inputs = .take .rx :: rest →
      step s = .next { s with inputs := rest, rx := { s.rx with resp := none } })

/-! ### Reset -/

/-- What reset leaves (R36): the values the spec gives. The operand latches, which R36 leaves
unspecified, are not named. -/
def Obligations.ResetLeavesTheValuesOfTheSpec : Prop :=
  let s := State.reset
  s.tx.busy = false ∧ s.rx.busy = false ∧ s.rx.uePending = false ∧ s.tx.xsAcc = 0 ∧
    s.tx.fbPhase = .sof ∧ s.tx.fbCnt = 0 ∧ s.rx.fpBuf = [] ∧ s.rx.fpBody = [] ∧
    s.rx.fpDeclared = 0 ∧ s.tx.spSeqIdx = 0 ∧ s.tx.spTotalLen = 0 ∧ s.tx.spOff = 0 ∧
    s.tx.spClen = 0 ∧ s.tx.bpChan = 0 ∧ s.tx.bpX = 0 ∧ s.tx.bpRow = 0 ∧ s.tx.bpColWord = 0 ∧
    s.tx.tpPhase = .reserved ∧ s.tx.tpCnt = 24 ∧ s.tx.resp = none ∧ s.rx.resp = none

/-- `rst` between operations: both agents as right after reset, but for the messages already
delivered; what waits at the ports goes on waiting. The operand latches come out at `State.reset`'s
values, which are the model's choice (log 1): R36 leaves them unspecified. -/
def Obligations.ResetKeepsOnlyWhatWasDelivered : Prop :=
  ∀ (s : State) (rest : List Input), s.inputs = .reset :: rest →
    step s = .next
      { tx := { State.reset.tx with sent := s.tx.sent }, rx := State.reset.rx, raster := s.raster,
        inputs := rest }

/-- `rst` during `STREAM.SEND` or `CMD.TEXT`, after `k` of its frames have been delivered (R231): no
response, both agents as after reset, and exactly those `k` frames (all of them if there are no more)
stay delivered; of one that would have ended in an error, none. The event is the model's (log 6), the
operand latches come out at `State.reset`'s values, the model's choice too (log 1). -/
def Obligations.ResetCutsAStreamShort : Prop :=
  ∀ (s : State) (rest : List Input) (r : TxLatches) (k : Nat),
    s.inputs = .txCutShort r k :: rest → s.tx.busy = false → s.tx.resp = none →
    let after (delivered : List Bytes) : Answer := .next
      { tx := { State.reset.tx with sent := s.tx.sent ++ delivered }, rx := State.reset.rx
        raster := s.raster, inputs := rest }
    (r.op = 0x7 → r.a.length ≤ FIELD_MAX →
      step s =
        after (((List.range (chunkCount r.a.length)).map (streamFrame r.tag r.a)).take k)) ∧
    (r.op = 0x7 → FIELD_MAX < r.a.length → step s = after []) ∧
    (r.op = 0xA → ∀ frames, cmdText r.width r.height s.raster r.b = .ok frames →
      step s = after (frames.take k)) ∧
    (r.op = 0xA → ∀ e, cmdText r.width r.height s.raster r.b = .error e → step s = after [])

/-! ### The operations: result, registers and frame -/

/-- `ESC` (R100): the response is the escaped input; nothing else changes but the closed buffers. -/
def Obligations.EscAnswersTheEscapedBytes : Prop :=
  decodeOp .tx 0x0 = .esc ∧
  ∀ s : State, exec .esc s = .next
    { s with
      tx := { s.tx with
        out := [], closed := [], resp := some (Response.ok (.buffer (escape s.tx.lat.a))) } }

/-- `UNESC` (R103): the unescaped input or the first error, with `raw`. `UE.esc_pending` is 0 after
success (R104); what it is left at after an error is not stated (log 13). -/
def Obligations.UnescAnswersTheUnescapedBytes : Prop :=
  decodeOp .rx 0x1 = .unesc ∧
  ∀ s : State, ∃ p : Bool, (∀ z, unescape s.rx.lat.a = .ok z → p = false) ∧
    exec .unesc s = .next
      { s with
        rx := { s.rx with
          out := [], uePending := p
          resp := some (decodeResponse s.rx.lat.a ((unescape s.rx.lat.a).map .buffer)) } }

/-- `XSUM` (R110): the checksum, left in `XS.acc` too (R112). -/
def Obligations.XsumAnswersTheChecksum : Prop :=
  decodeOp .tx 0x2 = .xsum ∧
  ∀ s : State, exec .xsum s = .next
    { s with
      tx := { s.tx with
        out := [], closed := [], xsAcc := checksum s.tx.lat.a
        resp := some (Response.ok (.byte (checksum s.tx.lat.a))) } }

/-- `FRAME.BUILD` (R120): one frame, delivered and answered; where the length does not fit, the error
and nothing delivered (R211). `FB`'s registers are as R122 leaves them. -/
def Obligations.FrameBuildDeliversTheFrame : Prop :=
  decodeOp .tx 0x3 = .frameBuild ∧
  (∀ s : State, s.tx.lat.a.length ≤ INNER_MAX → exec .frameBuild s = .next
    { s with
      tx := { s.tx with
        out := [], closed := [], fbPhase := .done, fbCnt := 0
        sent := s.tx.sent ++ [[SOF] ++ escape (u16be (half (s.tx.lat.a.length + 1)) ++
          [s.tx.lat.tag] ++ s.tx.lat.a) ++ [EOF]]
        resp := some (Response.ok (.buffer ([SOF] ++ escape
          (u16be (half (s.tx.lat.a.length + 1)) ++ [s.tx.lat.tag] ++ s.tx.lat.a) ++ [EOF]))) } }) ∧
  ∀ s : State, INNER_MAX < s.tx.lat.a.length → exec .frameBuild s = .next
    { s with
      tx := { s.tx with
        out := [], closed := [], resp := some (Response.error .fieldOverflow none none) } }

/-- `FRAME.PARSE` (R123): tag and inner payload, or the first error in the order of the checks, with
`raw`. `FP.buf` holds the message (R124); the other registers are not stated. -/
def Obligations.FrameParseAnswersTagAndPayload : Prop :=
  decodeOp .rx 0x4 = .frameParse ∧
  ∀ s : State, ∃ (p : Bool) (body : Bytes) (declared : Half), exec .frameParse s = .next
    { s with
      rx := { s.rx with
        out := [], fpBuf := s.rx.lat.a, uePending := p, fpBody := body, fpDeclared := declared
        resp := some (decodeResponse s.rx.lat.a
          ((parseFrame s.rx.lat.a).map fun r => .parsed r.1 r.2)) } }

/-- What `FRAME.PARSE` leaves in its registers when it succeeds (R124). -/
def Obligations.FrameParseLeavesTheBody : Prop :=
  ∀ (s : State) (tag : Byte) (payload : Bytes), parseFrame s.rx.lat.a = .ok (tag, payload) →
    exec .frameParse s = .next
      { s with
        rx := { s.rx with
          out := [], fpBuf := s.rx.lat.a, uePending := false
          fpBody := u16be (half (payload.length + 1)) ++ [tag] ++ payload
          fpDeclared := half (payload.length + 1)
          resp := some (Response.ok (.parsed tag payload)) } }

/-- `ACK.DECODE` (R175): the fields; or `DeviceReportedError` with them; or the parse error or
`ShortBody`; every error with `raw`. -/
def Obligations.AckDecodeAnswersTheFields : Prop :=
  decodeOp .rx 0x5 = .ackDecode ∧
  ∀ s : State, ∃ (p : Bool) (body : Bytes) (declared : Half), exec .ackDecode s = .next
    { s with
      rx := { s.rx with
        out := [], fpBuf := s.rx.lat.a, uePending := p, fpBody := body, fpDeclared := declared
        resp := some (ackResponse s.rx.lat.a (decodeAck s.rx.lat.a)) } }

/-- `SUBPKT.FMT` (R135): the sub-packet, and the registers R136 loads; on a chunk over 128 bytes the
error (R211). -/
def Obligations.SubpktFmtAnswersTheSubpacket : Prop :=
  decodeOp .tx 0x6 = .subpktFmt ∧
  (∀ s : State, s.tx.lat.a.length ≤ MAX_CHUNK →
    let h := [0x00] ++ u16be s.tx.lat.totalLen ++ u16be s.tx.lat.index ++
      [BitVec.ofNat 8 s.tx.lat.a.length] ++ s.tx.lat.a
    exec .subpktFmt s = .next
      { s with
        tx := { s.tx with
          out := [], closed := [], spTotalLen := s.tx.lat.totalLen, spSeqIdx := s.tx.lat.index
          spClen := BitVec.ofNat 8 s.tx.lat.a.length, xsAcc := checksum h
          resp := some (Response.ok (.buffer (h ++ [checksum h]))) } }) ∧
  ∀ s : State, MAX_CHUNK < s.tx.lat.a.length → exec .subpktFmt s = .next
    { s with
      tx := { s.tx with
        out := [], closed := [], resp := some (Response.error .fieldOverflow none none) } }

/-- `STREAM.SEND` (R137): the frames in rising index, delivered and answered; none for an empty
stream; on a payload over 65535 bytes the error and nothing delivered (R211). The registers are as R139
leaves them: `SP.clen` and `XS.acc` at the last sub-packet's, `FB` done (program P3); an empty stream
forms no sub-packet and leaves these as they were. -/
def Obligations.StreamSendDeliversTheFrames : Prop :=
  decodeOp .tx 0x7 = .streamSend ∧
  (∀ s : State, s.tx.lat.a.length ≤ FIELD_MAX →
    let a := s.tx.lat.a
    let n := (a.length + 127) / 128
    let frames := (List.range n).map (streamFrame s.tx.lat.tag a)
    ∃ (acc clen : Byte) (phase : FbPhase) (cnt : Half),
      (a ≠ [] → phase = .done ∧ cnt = 0 ∧
        clen = BitVec.ofNat 8 (chunkAt a (n - 1)).length ∧
        acc = checksum (subpacketHead (half a.length) (half (n - 1)) (chunkAt a (n - 1)))) ∧
      (a = [] → phase = s.tx.fbPhase ∧ cnt = s.tx.fbCnt ∧ clen = s.tx.spClen ∧
        acc = s.tx.xsAcc) ∧
      exec .streamSend s = .next
        { s with
          tx := { s.tx with
            out := [], closed := [], spTotalLen := half a.length
            spOff := half a.length, spSeqIdx := half n, spClen := clen, xsAcc := acc
            fbPhase := phase, fbCnt := cnt, sent := s.tx.sent ++ frames
            resp := some (Response.ok (.buffers frames)) } }) ∧
  ∀ s : State, FIELD_MAX < s.tx.lat.a.length → exec .streamSend s = .next
    { s with
      tx := { s.tx with
        out := [], closed := [], resp := some (Response.error .fieldOverflow none none) } }

/-- The empty stream (R140): no sub-packet, no frame, success with an empty list; and no `CMD.TEXT`
comes to it, since its Text payload is never empty. -/
def Obligations.EmptyStreamSendsNothing : Prop :=
  (∀ s : State, s.tx.lat.a = [] → ∃ t : State, exec .streamSend s = .next t ∧
    t.tx.resp = some (Response.ok (.buffers [])) ∧ t.tx.sent = s.tx.sent) ∧
  ∀ (width height : Half) (m : Memory) (caption : Bytes) (frames : List Bytes),
    cmdText width height m caption = .ok frames → frames ≠ []

/-- `BMP.PACK` (R150): the bitmap. `BP.col_word` holds the last column of the last channel, packed last
(R153), and with no column its start value 0 (R32); the final values of the loop counters are not
stated (V6). -/
def Obligations.BmpPackAnswersTheBitmap : Prop :=
  decodeOp .tx 0x8 = .bmpPack ∧
  (∀ s : State, s.tx.lat.height = 16 →
    let w := s.tx.lat.width.toNat
    ∃ (chan : BitVec 2) (x : Half) (row : BitVec 4), exec .bmpPack s = .next
      { s with
        tx := { s.tx with
          out := [], closed := [], bpChan := chan, bpX := x, bpRow := row
          bpColWord := if w = 0 then 0 else columnWord s.raster (w - 1) 2
          resp := some (Response.ok (.buffer (bitmapBytes s.raster w))) } }) ∧
  ∀ s : State, s.tx.lat.height ≠ 16 → exec .bmpPack s = .next
    { s with
      tx := { s.tx with
        out := [], closed := [], resp := some (Response.error .unsupportedHeight none none) } }

/-- `TEXT.PAYLOAD` (R154): the Text payload; `CaptionTooLong` before `FieldOverflow`. `TP.phase` ends
in `DONE` (R156); what `TP.cnt` holds then is not stated. -/
def Obligations.TextPayloadAnswersThePayload : Prop :=
  decodeOp .tx 0x9 = .textPayload ∧
  (∀ s : State, s.tx.lat.b.length ≤ CAPTION_MAX → s.tx.lat.a.length ≤ FIELD_MAX →
    ∃ cnt : Half, exec .textPayload s = .next
      { s with
        tx := { s.tx with
          out := [], closed := [], tpPhase := .done, tpCnt := cnt
          resp := some (Response.ok (.buffer (List.replicate 24 0 ++
            [BitVec.ofNat 8 s.tx.lat.b.length] ++ s.tx.lat.b ++
            List.replicate (80 - s.tx.lat.b.length) 0 ++ u16be (half s.tx.lat.a.length) ++
            s.tx.lat.a))) } }) ∧
  ∀ s : State, (CAPTION_MAX < s.tx.lat.b.length ∨ FIELD_MAX < s.tx.lat.a.length) →
    exec .textPayload s = .next
      { s with
        tx := { s.tx with
          out := [], closed := []
          resp := some (Response.error
            (if CAPTION_MAX < s.tx.lat.b.length then .captionTooLong else .fieldOverflow)
            none none) } }

/-- `CMD.TEXT` (R165): the response is `cmd_text` of the request, its frames are delivered, and an
error delivers none. After success the registers are as the three parts leave them (program P2 of
95_test_vectors.md): the last column packed, `TP` done, `SP` and `XS` at the last sub-packet of the Text
payload, `FB` done; loop counters, `TP.cnt` and the registers after an error are not stated. -/
def Obligations.CmdTextDeliversTheStream : Prop :=
  decodeOp .tx 0xA = .cmdText ∧
  ∀ s : State,
    let outcome := cmdText s.tx.lat.width s.tx.lat.height s.raster s.tx.lat.b
    ∃ t : TxAgent, exec .cmdText s = .next { s with tx := t } ∧
      t.lat = s.tx.lat ∧ t.busy = s.tx.busy ∧ t.out = [] ∧ t.closed = [] ∧
      t.resp = some (encodeResponse (outcome.map .buffers)) ∧
      t.sent = s.tx.sent ++ (match outcome with
        | .ok frames => frames
        | .error _ => []) ∧
      (∀ frames, outcome = .ok frames →
        let w := s.tx.lat.width.toNat
        let payload := textPayloadBytes (bitmapBytes s.raster w) s.tx.lat.b
        let last := frames.length - 1
        t.bpColWord = (if w = 0 then 0 else columnWord s.raster (w - 1) 2) ∧
        t.tpPhase = .done ∧
        t.spTotalLen = half payload.length ∧ t.spOff = half payload.length ∧
        t.spSeqIdx = half frames.length ∧
        t.spClen = BitVec.ofNat 8 (chunkAt payload last).length ∧
        t.xsAcc =
          checksum (subpacketHead (half payload.length) (half last) (chunkAt payload last)) ∧
        t.fbPhase = .done ∧ t.fbCnt = 0)

/-- `CMD.TEXT`'s outcome from width, height and caption length alone (R165, R9): which error, or how
many frames. -/
def Obligations.CmdTextChecksInOrder : Prop :=
  ∀ (width height : Half) (m : Memory) (caption : Bytes),
    (height ≠ 16 → cmdText width height m caption = .error .unsupportedHeight) ∧
    (height = 16 → CAPTION_MAX < caption.length →
      cmdText width height m caption = .error .captionTooLong) ∧
    (height = 16 → caption.length ≤ CAPTION_MAX → WIDTH_MAX < width.toNat →
      cmdText width height m caption = .error .fieldOverflow) ∧
    (height = 16 → caption.length ≤ CAPTION_MAX → width.toNat ≤ WIDTH_MAX →
      ∃ frames : List Bytes, cmdText width height m caption = .ok frames ∧
        frames.length = (107 + 6 * width.toNat + 127) / 128)

/-- `CMD.MODE` (R167): the mode byte framed with tag 6, whatever it is. -/
def Obligations.CmdModeDeliversTheModeFrame : Prop :=
  decodeOp .tx 0xB = .cmdMode ∧
  ∀ s : State, exec .cmdMode s = .next
    { s with
      tx := { s.tx with
        out := [], closed := [], fbPhase := .done, fbCnt := 0
        sent := s.tx.sent ++ [[SOF] ++ escape [0x00, 0x02, 0x06, s.tx.lat.mode] ++ [EOF]]
        resp := some (Response.ok
          (.buffer ([SOF] ++ escape [0x00, 0x02, 0x06, s.tx.lat.mode] ++ [EOF]))) } }

/-- A refused request changes the response port and nothing else (R79, R212): no operand is latched, no
working register changes, nothing is delivered. -/
def Obligations.RefusedRequestOnlyAnswersIllegalOp : Prop :=
  ∀ s : State,
    (∀ r : TxLatches, opOwner r.op ≠ some .tx → s.runTx r = .next
      { s with tx := { s.tx with resp := some (Response.error .illegalOp none none) } }) ∧
    (∀ r : RxLatches, opOwner r.op ≠ some .rx → s.runRx r = .next
      { s with rx := { s.rx with resp := some (Response.error .illegalOp none none) } }) ∧
    (∀ op : BitVec 4, exec (.reservedOp .tx op) s = .next
      { s with tx := { s.tx with resp := some (Response.error .illegalOp none none) } }) ∧
    (∀ op : BitVec 4, exec (.reservedOp .rx op) s = .next
      { s with rx := { s.rx with resp := some (Response.error .illegalOp none none) } })

/-! ### Code points (the model's granularity, log 7) -/

/-- Pairs and plain bytes written by `EE` (R61, R102). -/
def Obligations.CodePointsWrittenByEe : Prop :=
  ∀ s : State,
    exec (.pair01 .tx) s = .next { s with tx := { s.tx with out := s.tx.out ++ [0x02, 0x05] } } ∧
    exec (.pair02 .tx) s = .next { s with tx := { s.tx with out := s.tx.out ++ [0x02, 0x06] } } ∧
    exec (.pair03 .tx) s = .next { s with tx := { s.tx with out := s.tx.out ++ [0x02, 0x07] } } ∧
    ∀ b : Byte, b ∉ ESC_SET →
      exec (.plain .tx b) s = .next { s with tx := { s.tx with out := s.tx.out ++ [b] } }

/-- Pairs, plain bytes and the status byte read by `UE` at a pair boundary (R61, R73, R104): the wire
bytes are kept in `FP.buf`, what they stand for in `FP.body`. -/
def Obligations.CodePointsReadByUe : Prop :=
  ∀ s : State, s.rx.uePending = false →
    let read (wire value : Bytes) : Answer := .next
      { s with rx := { s.rx with fpBuf := s.rx.fpBuf ++ wire, fpBody := s.rx.fpBody ++ value } }
    exec (.pair01 .rx) s = read [0x02, 0x05] [0x01] ∧
    exec (.pair02 .rx) s = read [0x02, 0x06] [0x02] ∧
    exec (.pair03 .rx) s = read [0x02, 0x07] [0x03] ∧
    exec .statusOk s = read [0x00] [0x00] ∧
    (∀ b : Byte, b ≠ ESC_BYTE → exec (.plain .rx b) s = read [b] [b]) ∧
    ∀ second : Byte, 4 ≤ second.toNat →
      exec (.pairLenient second) s = read [0x02, second] [second - 4]

/-- A pair whose second byte is below 4 has no value (R73, R209): `InvalidEscape` with the bytes
received so far. -/
def Obligations.PairBelowFourRaisesInvalidEscape : Prop :=
  ∀ (s : State) (second : Byte), s.rx.uePending = false → second.toNat < 4 →
    exec (.pairLenient second) s = .next
      { s with
        rx := { s.rx with
          out := [], uePending := true, fpBuf := s.rx.fpBuf ++ [0x02]
          resp := some (Response.error .invalidEscape (some (s.rx.fpBuf ++ [0x02, second]))
            none) } }

/-- The markers written by `FB`: lines `SOF` and `EOF` of R122, the end marker delivering the buffer. -/
def Obligations.MarkersWrittenByFb : Prop :=
  ∀ s : State,
    exec (.sof .tx) s = .next { s with tx := { s.tx with out := [0x01], fbPhase := .lenHi } } ∧
    exec (.eof .tx) s = .next
      { s with
        tx := { s.tx with
          out := [], fbPhase := .done, closed := s.tx.closed ++ [s.tx.out ++ [0x03]]
          sent := s.tx.sent ++ [s.tx.out ++ [0x03]] } }

/-- The tags written by `FB`: line `TAG` of R122, tag 2 as the pair `02 06`, tag 6 as itself (R69). -/
def Obligations.TagsWrittenByFb : Prop :=
  ∀ s : State,
    let line (wire : Bytes) : Answer := .next
      { s with
        tx := { s.tx with
          out := s.tx.out ++ wire, fbPhase := if s.tx.fbCnt = 0 then .eof else .pay } }
    exec .tagText s = line [0x02, 0x06] ∧ exec .tagMode s = line [0x06]

/-- The mode values written by `FB` as the one byte of an inner payload (R67, R70): line `PAY` of R122,
values 1, 2, 3 as pairs. -/
def Obligations.ModeValuesWrittenByFb : Prop :=
  ∀ s : State,
    let line (wire : Bytes) : Answer := .next
      { s with tx := { s.tx with out := s.tx.out ++ wire, fbCnt := 0, fbPhase := .eof } }
    exec .mode1 s = line [0x02, 0x05] ∧ exec .mode2 s = line [0x02, 0x06] ∧
      exec .mode3 s = line [0x02, 0x07] ∧ exec .mode4 s = line [4] ∧ exec .mode5 s = line [5] ∧
      exec .mode6 s = line [6] ∧ exec .mode7 s = line [7] ∧ exec .mode8 s = line [8]

/-- The start marker read: a message begins with empty registers (R124). -/
def Obligations.StartMarkerReadBeginsAMessage : Prop :=
  ∀ s : State, exec (.sof .rx) s = .next
    { s with rx := { s.rx with fpBuf := [0x01], fpBody := [], uePending := false } }

/-- A message received byte by byte (start marker, interior, end marker) is answered as `FRAME.PARSE`
answers the whole message, wherever no byte raises `InvalidEscape` on the way (R123, R124). -/
def Obligations.EndMarkerReadAnswersAsFrameParse : Prop :=
  ∀ (s begun ended parsed : State) (inside : Bytes),
    unescape inside ≠ .error .invalidEscape →
    exec (.sof .rx) s = .next begun →
    exec (.eof .rx) (begun.receive inside) = .next ended →
    exec .frameParse { s with rx := { s.rx with lat := { s.rx.lat with a := [SOF] ++ inside ++ [EOF] } } } =
      .next parsed →
    ended.rx.resp = parsed.rx.resp ∧ ended.rx.fpBuf = parsed.rx.fpBuf ∧ ended.tx = s.tx

/-- The end marker read always answers: the message is what has been received and `03`, and the
response is that of the marker check, then of the open pair, then of steps 3 to 5 of R123 on `FP.body`.
After success `FP.declared` holds the body's first two bytes; after an error it is not stated. -/
def Obligations.EndMarkerReadCompletes : Prop :=
  ∀ s : State,
    let message := s.rx.fpBuf ++ [0x03]
    let outcome : Except ErrorKind (Byte × Bytes) :=
      if markersOk message then
        if s.rx.uePending then .error .truncatedEscape else parseBody s.rx.fpBody
      else .error .invalidFraming
    ∃ declared : Half,
      (∀ v b0 b1 content, outcome = .ok v → s.rx.fpBody = b0 :: b1 :: content →
        declared = be16 b0 b1) ∧
      exec (.eof .rx) s = .next
        { s with
          rx := { s.rx with
            out := [], fpBuf := message, fpDeclared := declared
            resp := some (decodeResponse message (outcome.map fun r => .parsed r.1 r.2)) } }

/-- `FRAME` (R62): written, it is built and delivered; read, it is parsed back to its fields. -/
def Obligations.FrameCodePointBuildsAndParses : Prop :=
  ∀ (s : State) (tag : Byte) (payload : Bytes), payload.length ≤ INNER_MAX →
    exec (.frame .tx tag payload) s = .next
      { s with
        tx := { s.tx with
          out := [], closed := [], fbPhase := .done, fbCnt := 0
          sent := s.tx.sent ++ [frameBytes tag payload]
          resp := some (Response.ok (.buffer (frameBytes tag payload))) } } ∧
    exec (.frame .rx tag payload) s = .next
      { s with
        rx := { s.rx with
          out := [], uePending := false, fpBuf := frameBytes tag payload
          fpBody := frameBody tag payload, fpDeclared := half (payload.length + 1)
          resp := some (Response.ok (.parsed tag payload)) } }

/-- `SUBPKT`, `TEXT`, `MODE` and `BITMAP.COLUMN` (R64 to R67): the bytes of their formats. That `TP.cnt`
is 0 after `TEXT` is the model's choice (log 2). -/
def Obligations.FormatCodePointsWriteTheirBytes : Prop :=
  ∀ s : State,
    (∀ (total index : Half) (chunk : Bytes), chunk.length ≤ MAX_CHUNK →
      exec (.subpkt total index chunk) s = .next
        { s with
          tx := { s.tx with
            out := [], closed := [], spTotalLen := total, spSeqIdx := index
            spClen := BitVec.ofNat 8 chunk.length
            xsAcc := checksum (subpacketHead total index chunk)
            resp := some (Response.ok (.buffer (subpacketBytes total index chunk))) } }) ∧
    (∀ caption bitmap : Bytes, caption.length ≤ CAPTION_MAX → bitmap.length ≤ FIELD_MAX →
      exec (.text caption bitmap) s = .next
        { s with
          tx := { s.tx with
            out := [], closed := [], tpPhase := .done, tpCnt := 0
            resp := some (Response.ok (.buffer (textPayloadBytes bitmap caption))) } }) ∧
    (∀ mode : Byte, exec (.modePayload mode) s = .next
      { s with
        tx := { s.tx with
          out := [], closed := [], fbPhase := .done, fbCnt := 0
          sent := s.tx.sent ++ [frameBytes TAG_MODE [mode]]
          resp := some (Response.ok (.buffer (frameBytes TAG_MODE [mode]))) } }) ∧
    (∀ word : Half, exec (.bitmapColumn word) s = .next
      { s with tx := { s.tx with bpColWord := word, out := s.tx.out ++ u16be word } })

/-- `ACK` (R68): the message with this content decodes to its fields, an error if the status is not
0. -/
def Obligations.AckCodePointDecodesToItsFields : Prop :=
  ∀ (s : State) (f : AckFields), exec (.ack f.ackType f.ackId f.seq f.status) s = .next
    { s with
      rx := { s.rx with
        out := [], uePending := false, fpBuf := ackMessage f, fpDeclared := 5
        fpBody := [0x00, 0x05, f.ackType, f.ackId] ++ u16be f.seq ++ [f.status]
        resp := some (ackResponse (ackMessage f) (.ok f)) } }

/-! ### Properties the spec states of the operations -/

/-- `ESC` then `UNESC` gives back every input (R105), through the two agents and as functions, so no
error can occur; the converse holds only for what `escape` can produce, and not for `02 04`. -/
def Obligations.UnescUndoesEsc : Prop :=
  (∀ (s t u : State) (z : Bytes), exec .esc s = .next t →
    t.tx.resp = some (Response.ok (.buffer z)) →
    exec .unesc { t with rx := { t.rx with lat := { t.rx.lat with a := z } } } = .next u →
    u.rx.resp = some (Response.ok (.buffer s.tx.lat.a))) ∧
  (∀ x : Bytes, unescape (escape x) = .ok x) ∧
  (∀ y z : Bytes, unescape z = .ok y → (escape y = z ↔ ∃ x, z = escape x)) ∧
  unescape [0x02, 0x04] = .ok [0x00] ∧ escape [0x00] = [0x00]

/-- R101: (a) what `escape` answers holds no `01` and no `03`, and every `02` in it is followed by 5, 6
or 7; (b) its length; (c) it is byte-wise; (d) it is injective; (e) its last byte is never `02`. -/
def Obligations.EscapedBytesHoldNoMarker : Prop :=
  (∀ x : Bytes, SOF ∉ escape x ∧ EOF ∉ escape x ∧
    (∀ (before after : Bytes), escape x = before ++ ESC_BYTE :: after →
      ∃ (second : Byte) (tail : Bytes),
        after = second :: tail ∧ (second = 5 ∨ second = 6 ∨ second = 7))) ∧
  (∀ x : Bytes, (escape x).length = x.length + (x.filter (· ∈ ESC_SET)).length ∧
    x.length ≤ (escape x).length ∧ (escape x).length ≤ 2 * x.length) ∧
  (∀ x y : Bytes, escape (x ++ y) = escape x ++ escape y) ∧
  (∀ x y : Bytes, escape x = escape y → x = y) ∧
  ∀ x : Bytes, (escape x).getLast? ≠ some ESC_BYTE

/-- R111: the checksum's identities, its indifference to order, and that a sequence followed by its
checksum sums to 0. -/
def Obligations.ChecksumIgnoresOrder : Prop :=
  checksum [] = 0 ∧ (∀ a : Byte, checksum [a] = a) ∧
    (∀ a b : Bytes, checksum (a ++ b) = checksum a ^^^ checksum b) ∧
    (∀ a b : Bytes, a.Perm b → checksum a = checksum b) ∧
    ∀ x : Bytes, checksum (x ++ [checksum x]) = 0

/-- A whole sub-packet, trailing byte included, sums to 0 (R111): `SUBPKT.FMT` then `XSUM`. -/
def Obligations.WholeSubpacketSumsToZero : Prop :=
  ∀ (s t u : State) (z : Bytes), exec .subpktFmt s = .next t →
    t.tx.resp = some (Response.ok (.buffer z)) →
    exec .xsum { t with tx := { t.tx with lat := { t.tx.lat with a := z } } } = .next u →
    u.tx.resp = some (Response.ok (.byte 0))

/-- A built frame parses back to its tag and inner payload (R125), through the two agents and as
functions; the converse holds only for what `build_frame` can produce, and not for a pair `02 04`. -/
def Obligations.FrameParseUndoesFrameBuild : Prop :=
  (∀ (s t u : State) (z : Bytes), exec .frameBuild s = .next t →
    t.tx.resp = some (Response.ok (.buffer z)) →
    exec .frameParse { t with rx := { t.rx with lat := { t.rx.lat with a := z } } } = .next u →
    u.rx.resp = some (Response.ok (.parsed s.tx.lat.tag s.tx.lat.a))) ∧
  (∀ (tag : Byte) (a : Bytes), a.length ≤ INNER_MAX →
    (buildFrame tag a).bind parseFrame = .ok (tag, a)) ∧
  (∀ (z : Bytes) (tag : Byte) (a : Bytes), parseFrame z = .ok (tag, a) →
    (buildFrame tag a = .ok z ↔ ∃ tag' a', buildFrame tag' a' = .ok z)) ∧
  parseFrame [0x01, 0x02, 0x04, 0x02, 0x05, 0x09, 0x03] = .ok (0x09, []) ∧
  buildFrame 0x09 [] = .ok [0x01, 0x00, 0x02, 0x05, 0x09, 0x03]

/-- R121: the size of a built frame; the start marker once, first; the end marker once, last; the
second byte never `03`; the last but one never an opening `02`. -/
def Obligations.BuiltFrameSizeAndMarkers : Prop :=
  ∀ (tag : Byte) (a frame : Bytes), buildFrame tag a = .ok frame →
    frame.length = 2 + (3 + a.length) +
      ((u16be (half (a.length + 1)) ++ [tag] ++ a).filter (· ∈ ESC_SET)).length ∧
    frame.count SOF = 1 ∧ frame.head? = some SOF ∧ frame.count EOF = 1 ∧
    frame.getLast? = some EOF ∧ frame[1]? ≠ some EOF ∧
    frame[frame.length - 2]? ≠ some ESC_BYTE

/-- The frames of a stream carry its payload (R138): `ceil(L/128)` of them, frame `i` parses to the
stream's tag and to sub-packet `i` of the whole length, every chunk but the last has 128 bytes and the
last 1 to 128, and the chunks in order are the payload. -/
def Obligations.StreamFramesCarryThePayload : Prop :=
  ∀ (s t : State) (frames : List Bytes), exec .streamSend s = .next t →
    t.tx.resp = some (Response.ok (.buffers frames)) →
    ∃ chunks : List Bytes,
      frames.length = (s.tx.lat.a.length + 127) / 128 ∧ chunks.length = frames.length ∧
      chunks.flatten = s.tx.lat.a ∧
      (∀ (i : Nat) (f c : Bytes), frames[i]? = some f → chunks[i]? = some c →
        parseFrame f =
            .ok (s.tx.lat.tag, subpacketBytes (half s.tx.lat.a.length) (half i) c) ∧
          (i + 1 < frames.length → c.length = 128) ∧ 1 ≤ c.length ∧ c.length ≤ 128)

/-- `CMD.TEXT` is `BMP.PACK`, then `TEXT.PAYLOAD`, then `STREAM.SEND` with tag 2 (R83): issued one by
one, each on the result before it, they give the same response and deliver the same messages. -/
def Obligations.CmdTextIsItsThreeParts : Prop :=
  ∀ (s whole packed wrapped streamed : State) (bitmap payload : Bytes),
    exec .cmdText s = .next whole →
    exec .bmpPack s = .next packed → packed.tx.resp = some (Response.ok (.buffer bitmap)) →
    exec .textPayload
        { packed with tx := { packed.tx with lat := { packed.tx.lat with a := bitmap } } } =
      .next wrapped →
    wrapped.tx.resp = some (Response.ok (.buffer payload)) →
    exec .streamSend
        { wrapped with
          tx := { wrapped.tx with lat := { wrapped.tx.lat with a := payload, tag := TAG_TEXT } } } =
      .next streamed →
    streamed.tx.resp = whole.tx.resp ∧ streamed.tx.sent = whole.tx.sent

/-- The bitmap bit by bit (R151, R65): its length, and for every column, channel and row the bit of
the byte it lands in. -/
def Obligations.BitmapBitIsThePixel : Prop :=
  ∀ (m : Memory) (w : Nat),
    (bitmapBytes m w).length = 6 * w ∧
    ∀ c x y : Nat, c < 3 → x < w → y < 16 →
      ∃ b : Byte, (bitmapBytes m w)[2 * (c * w + x) + y / 8]? = some b ∧
        b.getLsbD (7 - y % 8) = decide (75 < (Raster m x y c).toNat)

/-! ### The whole machine -/

/-- The raster a caller presents becomes the raster of the machine and reads back: the last intensity
given for a triple, and what nobody presented reads as 0 (the model's choice, log 3). -/
def Obligations.PresentedRasterReadsBack : Prop :=
  (∀ (s : State) (pixels : List Pixel) (rest : List Input), s.inputs = .raster pixels :: rest →
    step s = .next { s with inputs := rest, raster := rasterOf pixels }) ∧
  ∀ (pixels : List Pixel) (x y : Half) (c : Channel),
    (∀ v : Byte, Raster (rasterOf (pixels ++ [⟨x, y, c, v⟩])) x.toNat y.toNat c.num = v) ∧
    (∀ p : Pixel, (p.x, p.y, p.c) ≠ (x, y, c) →
      Raster (rasterOf (pixels ++ [p])) x.toNat y.toNat c.num =
        Raster (rasterOf pixels) x.toNat y.toNat c.num) ∧
    Raster (rasterOf []) x.toNat y.toNat c.num = 0

/-- Every instruction ends in a next state and keeps to its side (R20, R241): the other agent, the
raster and what waits at the ports are untouched, and its own latches and busy bit. -/
def Obligations.EveryInstructionEndsOnItsSide : Prop :=
  ∀ (i : Instr) (s : State), ∃ t : State, exec i s = .next t ∧
    t.raster = s.raster ∧ t.inputs = s.inputs ∧
    t.tx.lat = s.tx.lat ∧ t.rx.lat = s.rx.lat ∧ t.tx.busy = s.tx.busy ∧ t.rx.busy = s.rx.busy ∧
    (Instr.side i = .tx → t.rx = s.rx) ∧ (Instr.side i = .rx → t.tx = s.tx)

/-- The two agents do not interfere (R20, R53, R218): an instruction of one and one of the other give
the same state in either order. -/
def Obligations.AgentsCommute : Prop :=
  ∀ (i j : Instr) (s t u : State), Instr.side i = .tx → Instr.side j = .rx →
    exec i s = .next t → exec j s = .next u →
    ∃ v : State, exec j t = .next v ∧ exec i u = .next v

/-- A request's response and the messages it delivers are a function of the request alone (R21): two
states that agree on the agent's latches (and, for `TX`, on the raster) cannot be told apart, whatever
ran before in either. -/
def Obligations.RequestsForgetHistory : Prop :=
  ∀ (i : Instr) (s s' t t' : State), Instr.isRequest i = true →
    (Instr.side i = .tx → s.tx.lat = s'.tx.lat ∧ s.raster = s'.raster) →
    (Instr.side i = .rx → s.rx.lat = s'.rx.lat) →
    exec i s = .next t → exec i s' = .next t' →
    t.respAt (Instr.side i) = t'.respAt (Instr.side i) ∧
      t.tx.sent.drop s.tx.sent.length = t'.tx.sent.drop s'.tx.sent.length

/-- A request adds to the message sequence only frames in which the markers stand first and last and
nowhere else (R43, R121), and adds nothing where it ends in an error (R216). -/
def Obligations.RequestsDeliverOnlyProperFrames : Prop :=
  ∀ (i : Instr) (s t : State), Instr.isRequest i = true → exec i s = .next t →
    ∃ frames : List Bytes, t.tx.sent = s.tx.sent ++ frames ∧ (∀ f ∈ frames, ProperFrame f) ∧
      (∀ r, t.respAt (Instr.side i) = some r → r.status ≠ 0 → frames = [])

/-- Every step keeps the invariant, from every state that meets it (R31, R32, R78, R201, R208). -/
def Obligations.EveryStepKeepsTheInvariant : Prop :=
  ∀ s t : State, Inv s → step s = .next t → Inv t

/-- The machine right after reset meets the invariant. -/
def Obligations.ResetMeetsTheInvariant : Prop := Inv State.reset

/-! ### What the outside does during an operation -/

/-- `rst` during any other operation (R231): no response, both agents as after reset, nothing more
delivered by an operation that makes no frame, by a refused request, by one that would have ended in an
error, and by an operation of `RX`. `FRAME.BUILD` and `CMD.MODE` keep their one frame where it had been
delivered (`k` at least 1): that R231's sentence about frames holds for these two is the model's choice
(log 25), as are the events (log 6) and the values of the operand latches (log 1). -/
def Obligations.ResetAbandonsAnyOtherOperation : Prop :=
  ∀ (s : State) (rest : List Input),
    let after (delivered : List Bytes) : Answer := .next
      { tx := { State.reset.tx with sent := s.tx.sent ++ delivered }, rx := State.reset.rx
        raster := s.raster, inputs := rest }
    (∀ (r : TxLatches) (k : Nat),
      s.inputs = .txCutShort r k :: rest → s.tx.busy = false → s.tx.resp = none →
      (r.op ≠ 0x3 → r.op ≠ 0x7 → r.op ≠ 0xA → r.op ≠ 0xB → step s = after []) ∧
      (r.op = 0x3 → r.a.length ≤ INNER_MAX → step s = after ([frameBytes r.tag r.a].take k)) ∧
      (r.op = 0x3 → INNER_MAX < r.a.length → step s = after []) ∧
      (r.op = 0xB → step s = after ([frameBytes TAG_MODE [r.mode]].take k))) ∧
    ∀ r : RxLatches,
      s.inputs = .rxCutShort r :: rest → s.rx.busy = false → s.rx.resp = none → step s = after []

/-- `TP.cnt` is 0 once `TEXT.PAYLOAD` or `CMD.TEXT` has reached phase `DONE`: the model's choice
(log 2). -/
def Obligations.TextPayloadEndsAtCountZero : Prop :=
  (∀ s : State, s.tx.lat.b.length ≤ CAPTION_MAX → s.tx.lat.a.length ≤ FIELD_MAX →
    ∃ t : State, exec .textPayload s = .next t ∧ t.tx.tpPhase = .done ∧ t.tx.tpCnt = 0) ∧
  ∀ (s : State) (frames : List Bytes),
    cmdText s.tx.lat.width s.tx.lat.height s.raster s.tx.lat.b = .ok frames →
      ∃ t : State, exec .cmdText s = .next t ∧ t.tx.tpPhase = .done ∧ t.tx.tpCnt = 0

/-- An accepted request whose operand bytes never come sets the agent's busy bit and changes nothing
else (93 V3, the event and the untouched latches being the model's, log 18). A busy agent stays as it
is, but for a response still to be taken, through every step until an event drives `rst`. -/
def Obligations.StarvedAgentWaitsUntilReset : Prop :=
  (∀ (s : State) (rest : List Input),
    (s.inputs = .starve .tx :: rest → s.tx.busy = false → s.tx.resp = none →
      step s = .next { s with inputs := rest, tx := { s.tx with busy := true } }) ∧
    (s.inputs = .starve .rx :: rest → s.rx.busy = false → s.rx.resp = none →
      step s = .next { s with inputs := rest, rx := { s.rx with busy := true } })) ∧
  (∀ s t : State, s.tx.busy = true → .reset ∉ s.inputs → (∀ r, .rxCutShort r ∉ s.inputs) →
    step s = .next t → t.tx = s.tx ∨ t.tx = { s.tx with resp := none }) ∧
  ∀ s t : State, s.rx.busy = true → .reset ∉ s.inputs → (∀ r k, .txCutShort r k ∉ s.inputs) →
    step s = .next t → t.rx = s.rx ∨ t.rx = { s.rx with resp := none }

/-- An accepted request whose operands change before its response has no result: the step refuses it by
name (93 V1; the event is the model's, log 17). -/
def Obligations.ChangedOperandsAreRefused : Prop :=
  ∀ (s : State) (port : Agent) (rest : List Input),
    s.inputs = .unstable port :: rest → s.ready port = true →
      step s = .refused (.operandsChanged port)
end

