-- ==== Sys2Proof/Config.lean ====
section
/-! DEFINITION. What the spec leaves to the surroundings of the block (00_scope.md R8). The
constants of R7 are hardwired and stand in Machine/Constants.lean. -/

namespace Sys2Proof

/-- `TRANSPORT_MTU`, the transport's message-size ceiling: OPEN (92_eei_decisions.md D26, R239). It has
no body, so nothing can be proved of its value; no rule of the block reads it. A claim that a link
delivers a frame takes `length ≤ Config.transportMtu` as a premise. -/
opaque Config.transportMtu : Nat

end Sys2Proof
end

