-- ==== Sys2Proof/Laws/Bytes.lean ====
section
/-! SUPPORT. Small facts about 2-byte fields, lengths and the sizes of the wire formats. -/

namespace Sys2Proof.Machine

theorem half_toNat {n : Nat} (h : n ≤ 65535) : (half n).toNat = n := by
  simp only [half, BitVec.toNat_ofNat]
  omega

@[simp] theorem half_of_toNat (v : Half) : half v.toNat = v := by
  simp [half]

/-- `be16(a, b) = 256*a + b` (R11). -/
theorem be16_toNat (a b : Byte) : (be16 a b).toNat = 256 * a.toNat + b.toNat := by
  have h : (be16 a b).toNat = a.toNat <<< 8 ||| b.toNat := by
    simp only [be16]
    exact BitVec.toNat_append a b
  rw [h, ← Nat.shiftLeft_add_eq_or_of_lt (i := 8) b.isLt, Nat.shiftLeft_eq]
  omega

/-- `be16` reads what `u16be` writes (R11). -/
theorem be16_u16be (v : Half) : be16 (v.extractLsb' 8 8) (v.extractLsb' 0 8) = v := by
  apply BitVec.eq_of_toNat_eq
  have := v.isLt
  simp only [be16_toNat, BitVec.extractLsb'_toNat, Nat.shiftRight_eq_div_pow]
  omega

/-- `u16be` writes what `be16` reads (R11). -/
theorem u16be_be16 (a b : Byte) : u16be (be16 a b) = [a, b] := by
  have ha := a.isLt
  have hb := b.isLt
  unfold u16be
  congr 1
  · apply BitVec.eq_of_toNat_eq
    simp only [be16_toNat, BitVec.extractLsb'_toNat, Nat.shiftRight_eq_div_pow]
    omega
  · congr 1
    apply BitVec.eq_of_toNat_eq
    simp only [be16_toNat, BitVec.extractLsb'_toNat, Nat.shiftRight_eq_div_pow]
    omega

@[simp] theorem u16be_length (v : Half) : (u16be v).length = 2 := rfl

theorem frameBody_length (tag : Byte) (a : Bytes) : (frameBody tag a).length = a.length + 3 := by
  simp [frameBody]
  omega

theorem subpacketHead_length (total index : Half) (chunk : Bytes) :
    (subpacketHead total index chunk).length = chunk.length + 6 := by
  simp [subpacketHead]
  omega

/-- A sub-packet has `7 + n` bytes (R64). -/
theorem subpacketBytes_length (total index : Half) (chunk : Bytes) :
    (subpacketBytes total index chunk).length = chunk.length + 7 := by
  simp [subpacketBytes, subpacketHead_length]

/-- A Text payload has `107 + len(bitmap)` bytes (R66, R155). -/
theorem textPayloadBytes_length (bitmap caption : Bytes) (h : caption.length ≤ CAPTION_MAX) :
    (textPayloadBytes bitmap caption).length = 107 + bitmap.length := by
  simp only [CAPTION_MAX] at h
  simp [textPayloadBytes, TEXT_RESERVED, CAPTION_MAX]
  omega

/-- A bitmap has `6 * width` bytes (R65, R152). -/
theorem bitmapBytes_length (m : Memory) (w : Nat) : (bitmapBytes m w).length = 6 * w := by
  have h : ∀ c, ((List.range w).flatMap fun x => u16be (columnWord m x c)).length = 2 * w := by
    intro c
    simp only [List.length_flatMap, u16be_length]
    simp
    omega
  simp only [bitmapBytes, List.length_flatMap, h]
  simp [CHANNELS]
  omega

theorem chunkAt_length (a : Bytes) (i : Nat) :
    (chunkAt a i).length = min MAX_CHUNK (a.length - MAX_CHUNK * i) := by
  simp [chunkAt]

theorem chunkAt_length_le (a : Bytes) (i : Nat) : (chunkAt a i).length ≤ MAX_CHUNK := by
  rw [chunkAt_length]
  exact Nat.min_le_left _ _

end Sys2Proof.Machine
end

