-- ==== Sys2Proof/Laws/State.lean ====
section
/-! SUPPORT. One lemma per field per update of the state, each true by unfolding, so that no later proof
opens a record update. -/

namespace Sys2Proof.Machine

/-! ### `TxAgent.begin` -/

@[simp] theorem TxAgent.begin_lat (t : TxAgent) : t.begin.lat = t.lat := rfl
@[simp] theorem TxAgent.begin_busy (t : TxAgent) : t.begin.busy = t.busy := rfl
@[simp] theorem TxAgent.begin_resp (t : TxAgent) : t.begin.resp = t.resp := rfl
@[simp] theorem TxAgent.begin_out (t : TxAgent) : t.begin.out = [] := rfl
@[simp] theorem TxAgent.begin_closed (t : TxAgent) : t.begin.closed = [] := rfl
@[simp] theorem TxAgent.begin_sent (t : TxAgent) : t.begin.sent = t.sent := rfl
@[simp] theorem TxAgent.begin_xsAcc (t : TxAgent) : t.begin.xsAcc = t.xsAcc := rfl
@[simp] theorem TxAgent.begin_fbPhase (t : TxAgent) : t.begin.fbPhase = t.fbPhase := rfl
@[simp] theorem TxAgent.begin_fbCnt (t : TxAgent) : t.begin.fbCnt = t.fbCnt := rfl
@[simp] theorem TxAgent.begin_spSeqIdx (t : TxAgent) : t.begin.spSeqIdx = t.spSeqIdx := rfl
@[simp] theorem TxAgent.begin_spTotalLen (t : TxAgent) : t.begin.spTotalLen = t.spTotalLen := rfl
@[simp] theorem TxAgent.begin_spOff (t : TxAgent) : t.begin.spOff = t.spOff := rfl
@[simp] theorem TxAgent.begin_spClen (t : TxAgent) : t.begin.spClen = t.spClen := rfl
@[simp] theorem TxAgent.begin_bpChan (t : TxAgent) : t.begin.bpChan = t.bpChan := rfl
@[simp] theorem TxAgent.begin_bpX (t : TxAgent) : t.begin.bpX = t.bpX := rfl
@[simp] theorem TxAgent.begin_bpRow (t : TxAgent) : t.begin.bpRow = t.bpRow := rfl
@[simp] theorem TxAgent.begin_bpColWord (t : TxAgent) : t.begin.bpColWord = t.bpColWord := rfl
@[simp] theorem TxAgent.begin_tpPhase (t : TxAgent) : t.begin.tpPhase = t.tpPhase := rfl
@[simp] theorem TxAgent.begin_tpCnt (t : TxAgent) : t.begin.tpCnt = t.tpCnt := rfl

/-! ### `TxAgent.emit` -/

@[simp] theorem TxAgent.emit_lat (t : TxAgent) (b : Byte) : (t.emit b).lat = t.lat := rfl
@[simp] theorem TxAgent.emit_busy (t : TxAgent) (b : Byte) : (t.emit b).busy = t.busy := rfl
@[simp] theorem TxAgent.emit_resp (t : TxAgent) (b : Byte) : (t.emit b).resp = t.resp := rfl
@[simp] theorem TxAgent.emit_out (t : TxAgent) (b : Byte) : (t.emit b).out = t.out ++ [b] := rfl
@[simp] theorem TxAgent.emit_closed (t : TxAgent) (b : Byte) : (t.emit b).closed = t.closed := rfl
@[simp] theorem TxAgent.emit_sent (t : TxAgent) (b : Byte) : (t.emit b).sent = t.sent := rfl
@[simp] theorem TxAgent.emit_xsAcc (t : TxAgent) (b : Byte) : (t.emit b).xsAcc = t.xsAcc := rfl
@[simp] theorem TxAgent.emit_fbPhase (t : TxAgent) (b : Byte) :
    (t.emit b).fbPhase = t.fbPhase := rfl
@[simp] theorem TxAgent.emit_fbCnt (t : TxAgent) (b : Byte) : (t.emit b).fbCnt = t.fbCnt := rfl
@[simp] theorem TxAgent.emit_spSeqIdx (t : TxAgent) (b : Byte) :
    (t.emit b).spSeqIdx = t.spSeqIdx := rfl
@[simp] theorem TxAgent.emit_spTotalLen (t : TxAgent) (b : Byte) :
    (t.emit b).spTotalLen = t.spTotalLen := rfl
@[simp] theorem TxAgent.emit_spOff (t : TxAgent) (b : Byte) : (t.emit b).spOff = t.spOff := rfl
@[simp] theorem TxAgent.emit_spClen (t : TxAgent) (b : Byte) : (t.emit b).spClen = t.spClen := rfl
@[simp] theorem TxAgent.emit_bpChan (t : TxAgent) (b : Byte) : (t.emit b).bpChan = t.bpChan := rfl
@[simp] theorem TxAgent.emit_bpX (t : TxAgent) (b : Byte) : (t.emit b).bpX = t.bpX := rfl
@[simp] theorem TxAgent.emit_bpRow (t : TxAgent) (b : Byte) : (t.emit b).bpRow = t.bpRow := rfl
@[simp] theorem TxAgent.emit_bpColWord (t : TxAgent) (b : Byte) :
    (t.emit b).bpColWord = t.bpColWord := rfl
@[simp] theorem TxAgent.emit_tpPhase (t : TxAgent) (b : Byte) :
    (t.emit b).tpPhase = t.tpPhase := rfl
@[simp] theorem TxAgent.emit_tpCnt (t : TxAgent) (b : Byte) : (t.emit b).tpCnt = t.tpCnt := rfl

/-! ### `TxAgent.close` -/

@[simp] theorem TxAgent.close_lat (t : TxAgent) : t.close.lat = t.lat := rfl
@[simp] theorem TxAgent.close_busy (t : TxAgent) : t.close.busy = t.busy := rfl
@[simp] theorem TxAgent.close_resp (t : TxAgent) : t.close.resp = t.resp := rfl
@[simp] theorem TxAgent.close_out (t : TxAgent) : t.close.out = [] := rfl
@[simp] theorem TxAgent.close_closed (t : TxAgent) : t.close.closed = t.closed ++ [t.out] := rfl
@[simp] theorem TxAgent.close_sent (t : TxAgent) : t.close.sent = t.sent := rfl
@[simp] theorem TxAgent.close_xsAcc (t : TxAgent) : t.close.xsAcc = t.xsAcc := rfl
@[simp] theorem TxAgent.close_fbPhase (t : TxAgent) : t.close.fbPhase = t.fbPhase := rfl
@[simp] theorem TxAgent.close_fbCnt (t : TxAgent) : t.close.fbCnt = t.fbCnt := rfl
@[simp] theorem TxAgent.close_spSeqIdx (t : TxAgent) : t.close.spSeqIdx = t.spSeqIdx := rfl
@[simp] theorem TxAgent.close_spTotalLen (t : TxAgent) : t.close.spTotalLen = t.spTotalLen := rfl
@[simp] theorem TxAgent.close_spOff (t : TxAgent) : t.close.spOff = t.spOff := rfl
@[simp] theorem TxAgent.close_spClen (t : TxAgent) : t.close.spClen = t.spClen := rfl
@[simp] theorem TxAgent.close_bpChan (t : TxAgent) : t.close.bpChan = t.bpChan := rfl
@[simp] theorem TxAgent.close_bpX (t : TxAgent) : t.close.bpX = t.bpX := rfl
@[simp] theorem TxAgent.close_bpRow (t : TxAgent) : t.close.bpRow = t.bpRow := rfl
@[simp] theorem TxAgent.close_bpColWord (t : TxAgent) : t.close.bpColWord = t.bpColWord := rfl
@[simp] theorem TxAgent.close_tpPhase (t : TxAgent) : t.close.tpPhase = t.tpPhase := rfl
@[simp] theorem TxAgent.close_tpCnt (t : TxAgent) : t.close.tpCnt = t.tpCnt := rfl

/-! ### `TxAgent.deliver` -/

@[simp] theorem TxAgent.deliver_lat (t : TxAgent) : t.deliver.lat = t.lat := rfl
@[simp] theorem TxAgent.deliver_busy (t : TxAgent) : t.deliver.busy = t.busy := rfl
@[simp] theorem TxAgent.deliver_resp (t : TxAgent) : t.deliver.resp = t.resp := rfl
@[simp] theorem TxAgent.deliver_out (t : TxAgent) : t.deliver.out = [] := rfl
@[simp] theorem TxAgent.deliver_closed (t : TxAgent) : t.deliver.closed = t.closed ++ [t.out] := rfl
@[simp] theorem TxAgent.deliver_sent (t : TxAgent) : t.deliver.sent = t.sent ++ [t.out] := rfl
@[simp] theorem TxAgent.deliver_xsAcc (t : TxAgent) : t.deliver.xsAcc = t.xsAcc := rfl
@[simp] theorem TxAgent.deliver_fbPhase (t : TxAgent) : t.deliver.fbPhase = t.fbPhase := rfl
@[simp] theorem TxAgent.deliver_fbCnt (t : TxAgent) : t.deliver.fbCnt = t.fbCnt := rfl
@[simp] theorem TxAgent.deliver_spSeqIdx (t : TxAgent) : t.deliver.spSeqIdx = t.spSeqIdx := rfl
@[simp] theorem TxAgent.deliver_spTotalLen (t : TxAgent) :
    t.deliver.spTotalLen = t.spTotalLen := rfl
@[simp] theorem TxAgent.deliver_spOff (t : TxAgent) : t.deliver.spOff = t.spOff := rfl
@[simp] theorem TxAgent.deliver_spClen (t : TxAgent) : t.deliver.spClen = t.spClen := rfl
@[simp] theorem TxAgent.deliver_bpChan (t : TxAgent) : t.deliver.bpChan = t.bpChan := rfl
@[simp] theorem TxAgent.deliver_bpX (t : TxAgent) : t.deliver.bpX = t.bpX := rfl
@[simp] theorem TxAgent.deliver_bpRow (t : TxAgent) : t.deliver.bpRow = t.bpRow := rfl
@[simp] theorem TxAgent.deliver_bpColWord (t : TxAgent) : t.deliver.bpColWord = t.bpColWord := rfl
@[simp] theorem TxAgent.deliver_tpPhase (t : TxAgent) : t.deliver.tpPhase = t.tpPhase := rfl
@[simp] theorem TxAgent.deliver_tpCnt (t : TxAgent) : t.deliver.tpCnt = t.tpCnt := rfl

/-! ### `TxAgent.xsClear` -/

@[simp] theorem TxAgent.xsClear_lat (t : TxAgent) : t.xsClear.lat = t.lat := rfl
@[simp] theorem TxAgent.xsClear_busy (t : TxAgent) : t.xsClear.busy = t.busy := rfl
@[simp] theorem TxAgent.xsClear_resp (t : TxAgent) : t.xsClear.resp = t.resp := rfl
@[simp] theorem TxAgent.xsClear_out (t : TxAgent) : t.xsClear.out = t.out := rfl
@[simp] theorem TxAgent.xsClear_closed (t : TxAgent) : t.xsClear.closed = t.closed := rfl
@[simp] theorem TxAgent.xsClear_sent (t : TxAgent) : t.xsClear.sent = t.sent := rfl
@[simp] theorem TxAgent.xsClear_xsAcc (t : TxAgent) : t.xsClear.xsAcc = XSUM_SEED := rfl
@[simp] theorem TxAgent.xsClear_fbPhase (t : TxAgent) : t.xsClear.fbPhase = t.fbPhase := rfl
@[simp] theorem TxAgent.xsClear_fbCnt (t : TxAgent) : t.xsClear.fbCnt = t.fbCnt := rfl
@[simp] theorem TxAgent.xsClear_spSeqIdx (t : TxAgent) : t.xsClear.spSeqIdx = t.spSeqIdx := rfl
@[simp] theorem TxAgent.xsClear_spTotalLen (t : TxAgent) :
    t.xsClear.spTotalLen = t.spTotalLen := rfl
@[simp] theorem TxAgent.xsClear_spOff (t : TxAgent) : t.xsClear.spOff = t.spOff := rfl
@[simp] theorem TxAgent.xsClear_spClen (t : TxAgent) : t.xsClear.spClen = t.spClen := rfl
@[simp] theorem TxAgent.xsClear_bpChan (t : TxAgent) : t.xsClear.bpChan = t.bpChan := rfl
@[simp] theorem TxAgent.xsClear_bpX (t : TxAgent) : t.xsClear.bpX = t.bpX := rfl
@[simp] theorem TxAgent.xsClear_bpRow (t : TxAgent) : t.xsClear.bpRow = t.bpRow := rfl
@[simp] theorem TxAgent.xsClear_bpColWord (t : TxAgent) : t.xsClear.bpColWord = t.bpColWord := rfl
@[simp] theorem TxAgent.xsClear_tpPhase (t : TxAgent) : t.xsClear.tpPhase = t.tpPhase := rfl
@[simp] theorem TxAgent.xsClear_tpCnt (t : TxAgent) : t.xsClear.tpCnt = t.tpCnt := rfl

/-! ### `TxAgent.xsAbsorb` -/

@[simp] theorem TxAgent.xsAbsorb_lat (t : TxAgent) (b : Byte) : (t.xsAbsorb b).lat = t.lat := rfl
@[simp] theorem TxAgent.xsAbsorb_busy (t : TxAgent) (b : Byte) : (t.xsAbsorb b).busy = t.busy := rfl
@[simp] theorem TxAgent.xsAbsorb_resp (t : TxAgent) (b : Byte) : (t.xsAbsorb b).resp = t.resp := rfl
@[simp] theorem TxAgent.xsAbsorb_out (t : TxAgent) (b : Byte) : (t.xsAbsorb b).out = t.out := rfl
@[simp] theorem TxAgent.xsAbsorb_closed (t : TxAgent) (b : Byte) :
    (t.xsAbsorb b).closed = t.closed := rfl
@[simp] theorem TxAgent.xsAbsorb_sent (t : TxAgent) (b : Byte) : (t.xsAbsorb b).sent = t.sent := rfl
@[simp] theorem TxAgent.xsAbsorb_xsAcc (t : TxAgent) (b : Byte) :
    (t.xsAbsorb b).xsAcc = t.xsAcc ^^^ b := rfl
@[simp] theorem TxAgent.xsAbsorb_fbPhase (t : TxAgent) (b : Byte) :
    (t.xsAbsorb b).fbPhase = t.fbPhase := rfl
@[simp] theorem TxAgent.xsAbsorb_fbCnt (t : TxAgent) (b : Byte) :
    (t.xsAbsorb b).fbCnt = t.fbCnt := rfl
@[simp] theorem TxAgent.xsAbsorb_spSeqIdx (t : TxAgent) (b : Byte) :
    (t.xsAbsorb b).spSeqIdx = t.spSeqIdx := rfl
@[simp] theorem TxAgent.xsAbsorb_spTotalLen (t : TxAgent) (b : Byte) :
    (t.xsAbsorb b).spTotalLen = t.spTotalLen := rfl
@[simp] theorem TxAgent.xsAbsorb_spOff (t : TxAgent) (b : Byte) :
    (t.xsAbsorb b).spOff = t.spOff := rfl
@[simp] theorem TxAgent.xsAbsorb_spClen (t : TxAgent) (b : Byte) :
    (t.xsAbsorb b).spClen = t.spClen := rfl
@[simp] theorem TxAgent.xsAbsorb_bpChan (t : TxAgent) (b : Byte) :
    (t.xsAbsorb b).bpChan = t.bpChan := rfl
@[simp] theorem TxAgent.xsAbsorb_bpX (t : TxAgent) (b : Byte) : (t.xsAbsorb b).bpX = t.bpX := rfl
@[simp] theorem TxAgent.xsAbsorb_bpRow (t : TxAgent) (b : Byte) :
    (t.xsAbsorb b).bpRow = t.bpRow := rfl
@[simp] theorem TxAgent.xsAbsorb_bpColWord (t : TxAgent) (b : Byte) :
    (t.xsAbsorb b).bpColWord = t.bpColWord := rfl
@[simp] theorem TxAgent.xsAbsorb_tpPhase (t : TxAgent) (b : Byte) :
    (t.xsAbsorb b).tpPhase = t.tpPhase := rfl
@[simp] theorem TxAgent.xsAbsorb_tpCnt (t : TxAgent) (b : Byte) :
    (t.xsAbsorb b).tpCnt = t.tpCnt := rfl

/-! ### `RxAgent.begin`, `RxAgent.fpReceive` -/

@[simp] theorem RxAgent.begin_lat (r : RxAgent) : r.begin.lat = r.lat := rfl
@[simp] theorem RxAgent.begin_busy (r : RxAgent) : r.begin.busy = r.busy := rfl
@[simp] theorem RxAgent.begin_resp (r : RxAgent) : r.begin.resp = r.resp := rfl
@[simp] theorem RxAgent.begin_out (r : RxAgent) : r.begin.out = [] := rfl
@[simp] theorem RxAgent.begin_uePending (r : RxAgent) : r.begin.uePending = r.uePending := rfl
@[simp] theorem RxAgent.begin_fpBuf (r : RxAgent) : r.begin.fpBuf = r.fpBuf := rfl
@[simp] theorem RxAgent.begin_fpBody (r : RxAgent) : r.begin.fpBody = r.fpBody := rfl
@[simp] theorem RxAgent.begin_fpDeclared (r : RxAgent) : r.begin.fpDeclared = r.fpDeclared := rfl

@[simp] theorem RxAgent.fpReceive_lat (r : RxAgent) (m : Bytes) : (r.fpReceive m).lat = r.lat := rfl
@[simp] theorem RxAgent.fpReceive_busy (r : RxAgent) (m : Bytes) :
    (r.fpReceive m).busy = r.busy := rfl
@[simp] theorem RxAgent.fpReceive_resp (r : RxAgent) (m : Bytes) :
    (r.fpReceive m).resp = r.resp := rfl
@[simp] theorem RxAgent.fpReceive_out (r : RxAgent) (m : Bytes) : (r.fpReceive m).out = r.out := rfl
@[simp] theorem RxAgent.fpReceive_uePending (r : RxAgent) (m : Bytes) :
    (r.fpReceive m).uePending = r.uePending := rfl
@[simp] theorem RxAgent.fpReceive_fpBuf (r : RxAgent) (m : Bytes) : (r.fpReceive m).fpBuf = m := rfl
@[simp] theorem RxAgent.fpReceive_fpBody (r : RxAgent) (m : Bytes) :
    (r.fpReceive m).fpBody = r.fpBody := rfl
@[simp] theorem RxAgent.fpReceive_fpDeclared (r : RxAgent) (m : Bytes) :
    (r.fpReceive m).fpDeclared = r.fpDeclared := rfl

/-! ### `State.answer_tx` -/

@[simp] theorem State.answer_tx_tx (s : State) (r : Response) :
    (s.answer .tx r).tx = { s.tx with resp := some r, out := [], closed := [] } := rfl
@[simp] theorem State.answer_tx_rx (s : State) (r : Response) : (s.answer .tx r).rx = s.rx := rfl
@[simp] theorem State.answer_tx_raster (s : State) (r : Response) :
    (s.answer .tx r).raster = s.raster := rfl
@[simp] theorem State.answer_tx_inputs (s : State) (r : Response) :
    (s.answer .tx r).inputs = s.inputs := rfl

/-! ### `State.answer_rx` -/

@[simp] theorem State.answer_rx_tx (s : State) (r : Response) : (s.answer .rx r).tx = s.tx := rfl
@[simp] theorem State.answer_rx_rx (s : State) (r : Response) :
    (s.answer .rx r).rx = { s.rx with resp := some r, out := [] } := rfl
@[simp] theorem State.answer_rx_raster (s : State) (r : Response) :
    (s.answer .rx r).raster = s.raster := rfl
@[simp] theorem State.answer_rx_inputs (s : State) (r : Response) :
    (s.answer .rx r).inputs = s.inputs := rfl

/-! ### `State.refuse_tx` -/

@[simp] theorem State.refuse_tx_tx (s : State) :
    (s.refuse .tx).tx = { s.tx with resp := some (Response.error .illegalOp none none) } := rfl
@[simp] theorem State.refuse_tx_rx (s : State) : (s.refuse .tx).rx = s.rx := rfl
@[simp] theorem State.refuse_tx_raster (s : State) : (s.refuse .tx).raster = s.raster := rfl
@[simp] theorem State.refuse_tx_inputs (s : State) : (s.refuse .tx).inputs = s.inputs := rfl

/-! ### `State.refuse_rx` -/

@[simp] theorem State.refuse_rx_tx (s : State) : (s.refuse .rx).tx = s.tx := rfl
@[simp] theorem State.refuse_rx_rx (s : State) :
    (s.refuse .rx).rx = { s.rx with resp := some (Response.error .illegalOp none none) } := rfl
@[simp] theorem State.refuse_rx_raster (s : State) : (s.refuse .rx).raster = s.raster := rfl
@[simp] theorem State.refuse_rx_inputs (s : State) : (s.refuse .rx).inputs = s.inputs := rfl

/-! ### `State.take_tx` -/

@[simp] theorem State.take_tx_tx (s : State) : (s.take .tx).tx = { s.tx with resp := none } := rfl
@[simp] theorem State.take_tx_rx (s : State) : (s.take .tx).rx = s.rx := rfl
@[simp] theorem State.take_tx_raster (s : State) : (s.take .tx).raster = s.raster := rfl
@[simp] theorem State.take_tx_inputs (s : State) : (s.take .tx).inputs = s.inputs := rfl

/-! ### `State.take_rx` -/

@[simp] theorem State.take_rx_tx (s : State) : (s.take .rx).tx = s.tx := rfl
@[simp] theorem State.take_rx_rx (s : State) : (s.take .rx).rx = { s.rx with resp := none } := rfl
@[simp] theorem State.take_rx_raster (s : State) : (s.take .rx).raster = s.raster := rfl
@[simp] theorem State.take_rx_inputs (s : State) : (s.take .rx).inputs = s.inputs := rfl

/-! ### `State.starve_tx` -/

@[simp] theorem State.starve_tx_tx (s : State) :
    (s.starve .tx).tx = { s.tx with busy := true } := rfl
@[simp] theorem State.starve_tx_rx (s : State) : (s.starve .tx).rx = s.rx := rfl
@[simp] theorem State.starve_tx_raster (s : State) : (s.starve .tx).raster = s.raster := rfl
@[simp] theorem State.starve_tx_inputs (s : State) : (s.starve .tx).inputs = s.inputs := rfl

/-! ### `State.starve_rx` -/

@[simp] theorem State.starve_rx_tx (s : State) : (s.starve .rx).tx = s.tx := rfl
@[simp] theorem State.starve_rx_rx (s : State) :
    (s.starve .rx).rx = { s.rx with busy := true } := rfl
@[simp] theorem State.starve_rx_raster (s : State) : (s.starve .rx).raster = s.raster := rfl
@[simp] theorem State.starve_rx_inputs (s : State) : (s.starve .rx).inputs = s.inputs := rfl

/-! ### `State.rst` -/

@[simp] theorem State.rst_tx (s : State) :
    s.rst.tx = { TxAgent.reset with sent := s.tx.sent } := rfl
@[simp] theorem State.rst_rx (s : State) : s.rst.rx = RxAgent.reset := rfl
@[simp] theorem State.rst_raster (s : State) : s.rst.raster = s.raster := rfl
@[simp] theorem State.rst_inputs (s : State) : s.rst.inputs = s.inputs := rfl

/-! ### Ends of operations, as answers at a port -/

theorem State.respond_eq (s : State) (p : Agent) (r : Result) :
    s.respond p r = s.answer p (Response.ok r) := rfl

theorem State.raise_eq (s : State) (p : Agent) (k : ErrorKind) (raw : Option Bytes)
    (ack : Option AckFields) : s.raise p k raw ack = s.answer p (Response.error k raw ack) := rfl

theorem State.respondBuffer_eq (s : State) (t : TxAgent) :
    s.respondBuffer t =
      { s with
        tx := { t with
          resp := some (Response.ok (.buffer (t.closed.headD []))), out := [], closed := [] } } :=
  rfl

theorem State.respondBuffers_eq (s : State) (t : TxAgent) :
    s.respondBuffers t =
      { s with
        tx := { t with resp := some (Response.ok (.buffers t.closed)), out := [], closed := [] } } :=
  rfl

theorem State.raiseTx_eq (s : State) (t : TxAgent) (k : ErrorKind) :
    s.raiseTx t k =
      { s with
        tx := { t with resp := some (Response.error k none none), out := [], closed := [] } } := rfl

theorem State.raiseRx_eq (s : State) (r : RxAgent) (k : ErrorKind) (raw : Bytes) :
    s.raiseRx r k raw =
      { s with rx := { r with resp := some (Response.error k (some raw) none), out := [] } } := rfl

@[simp] theorem Response.ok_status (r : Result) : (Response.ok r).status = 0 := rfl
@[simp] theorem Response.ok_result (r : Result) : (Response.ok r).result = some r := rfl
@[simp] theorem Response.ok_raw (r : Result) : (Response.ok r).raw = none := rfl
@[simp] theorem Response.error_status (k : ErrorKind) (raw : Option Bytes) (a : Option AckFields) :
    (Response.error k raw a).status = k.code := rfl
@[simp] theorem Response.error_raw (k : ErrorKind) (raw : Option Bytes) (a : Option AckFields) :
    (Response.error k raw a).raw = raw := rfl

end Sys2Proof.Machine
end

