-- ==== Sys2Proof/Laws/Decoding.lean ====
section
/-! SUPPORT. What `UE` and `FP` do, said once, and the escape codec's inverse on single bytes. -/

namespace Sys2Proof.Machine

/-- `UE` over an input that unescapes ends at a pair boundary with the unescaped bytes; over any other
it ends with the error `unescape` has, inside a pair (R103, R104). -/
theorem ueRun_eq (a out : Bytes) :
    match unescape a with
    | .ok z => ueRun false out a = ⟨false, out ++ z, none⟩
    | .error k => ∃ o, ueRun false out a = ⟨true, o, some k⟩ := by
  induction a using unescape.induct generalizing out with
  | case1 => simp [unescape, ueRun]
  | case2 => simp [unescape, ueRun, ueStep]
  | case3 b hb => simp [unescape, ueRun, ueStep, hb]
  | case4 s r hs ih =>
    have h := ih (out ++ [s - ESC_OFFSET])
    simp only [unescape, hs, if_true, ueRun, ueStep, Bool.false_eq_true, if_false]
    cases hr : unescape r with
    | ok z => rw [hr] at h; simpa [Except.map] using h
    | error k => rw [hr] at h; simpa [Except.map] using h
  | case5 s r hs =>
    simp [unescape, hs, ueRun, ueStep]
  | case6 b s r hb ih =>
    have h := ih (out ++ [b])
    have hrun : ueRun false out (b :: s :: r) = ueRun false (out ++ [b]) (s :: r) := by
      rw [ueRun]
      simp [ueStep, hb]
    simp only [unescape, hb, if_false, hrun]
    cases hr : unescape (s :: r) with
    | ok z => rw [hr] at h; simpa [Except.map] using h
    | error k => rw [hr] at h; simpa [Except.map] using h

theorem ueRun_ok {a z : Bytes} (out : Bytes) (h : unescape a = .ok z) :
    ueRun false out a = ⟨false, out ++ z, none⟩ := by
  have := ueRun_eq a out
  rwa [h] at this

theorem ueRun_error {a : Bytes} {k : ErrorKind} (out : Bytes) (h : unescape a = .error k) :
    ∃ o, ueRun false out a = ⟨true, o, some k⟩ := by
  have := ueRun_eq a out
  rwa [h] at this

/-- Phase 3 decides as `parseBody` does and writes only `FP.declared` (R123, R124). -/
theorem RxAgent.fpFields_eq (r : RxAgent) :
    ∃ d, r.fpFields = ({ r with fpDeclared := d }, parseBody r.fpBody) := ⟨_, rfl⟩

/-- A body as the builder forms it reads back as its tag and inner payload (R63, R123). -/
theorem parseBody_frameBody (tag : Byte) (a : Bytes) (h : a.length ≤ INNER_MAX) :
    parseBody (frameBody tag a) = .ok (tag, a) := by
  simp only [INNER_MAX] at h
  have hlen : (half (a.length + 1)).toNat = a.length + 1 := half_toNat (by omega)
  simp only [frameBody, u16be, List.cons_append, List.nil_append, parseBody, be16_u16be, hlen]
  simp

/-- `FP`'s run decides as `parse_frame` does and writes only its own registers (R123, R124). -/
theorem RxAgent.fpRun_eq (r : RxAgent) (a : Bytes) :
    ∃ p body d, r.fpRun a =
      ({ r with fpBuf := a, uePending := p, fpBody := body, fpDeclared := d }, parseFrame a) := by
  unfold RxAgent.fpRun parseFrame
  by_cases hm : markersOk a = true
  · simp only [RxAgent.fpReceive, hm, if_true, RxAgent.fpUnescape]
    cases hu : unescape (interior a) with
    | ok z =>
      rw [ueRun_ok [] hu]
      obtain ⟨d, hd⟩ := RxAgent.fpFields_eq
        { r with fpBuf := a, uePending := false, fpBody := [] ++ z }
      exact ⟨false, [] ++ z, d, by simpa [Except.bind] using hd⟩
    | error k =>
      obtain ⟨o, ho⟩ := ueRun_error [] hu
      rw [ho]
      exact ⟨true, o, r.fpDeclared, rfl⟩
  · simp only [RxAgent.fpReceive, hm]
    exact ⟨r.uePending, r.fpBody, r.fpDeclared, rfl⟩

/-- Bytes that raise no `InvalidEscape` on the way arrive as one run of `UE` over them (R104, R124). -/
theorem State.receive_eq (z : Bytes) (s : State)
    (h : (ueRun s.rx.uePending s.rx.fpBody z).err ≠ some .invalidEscape) :
    s.receive z =
      { s with
        rx := { s.rx with
          fpBuf := s.rx.fpBuf ++ z
          uePending := (ueRun s.rx.uePending s.rx.fpBody z).pending
          fpBody := (ueRun s.rx.uePending s.rx.fpBody z).out } } := by
  induction z generalizing s with
  | nil => simp [State.receive, ueRun]
  | cons b z ih =>
    simp only [ueRun] at h ⊢
    cases hs : ueStep s.rx.uePending b with
    | none => rw [hs] at h; simp at h
    | some p =>
      rw [hs] at h
      simp only [State.receive, RxAgent.fpByte, hs, Option.map_some]
      rw [ih _ h]
      simp

/-! ### The markers and the escape pairs taken off again -/

/-- What lies between the markers of a message (R14). -/
theorem interior_wrap (z : Bytes) : interior ([SOF] ++ z ++ [EOF]) = z := by
  simp [interior]

/-- A message with its markers passes step 1 of R123. -/
theorem markersOk_wrap (z : Bytes) : markersOk ([SOF] ++ z ++ [EOF]) = true := by
  simp [markersOk]
  exact List.getLast?_concat (l := SOF :: z)

/-- The wire form of one byte unescapes to that byte (R100, R103). -/
theorem unescape_escapeByte (b : Byte) (r : Bytes) :
    unescape (escapeByte b ++ r) = (unescape r).map (b :: ·) := by
  unfold escapeByte
  by_cases h : inEscSet b = true
  · have hv : hasPairValue (b + ESC_OFFSET) = true := by
      simp [inEscSet, ESC_SET] at h
      rcases h with rfl | rfl | rfl <;> rfl
    simp only [h, if_true, List.cons_append, List.nil_append, unescape, hv]
    simp
  · have hb : b ≠ ESC_BYTE := by rintro rfl; exact h rfl
    simp only [h, Bool.false_eq_true, if_false, List.cons_append, List.nil_append]
    cases r with
    | nil => simp [unescape, hb, Except.map]
    | cons s r => simp [unescape, hb]

end Sys2Proof.Machine
end

