-- ==== Sys2Proof/Laws/Memory.lean ====
section
/-! SUPPORT. The laws of the raster's cells: reading what was written, leaving the rest alone, and
keeping the canonical form; keys of different triples differ. -/

namespace Sys2Proof.Machine

theorem Memory.wfAbove_of_weaker {lo lo' : Option Nat} {m : Memory}
    (h : m.wfAbove lo = true) (hl : ∀ l', lo' = some l' → ∃ l, lo = some l ∧ l' ≤ l) :
    m.wfAbove lo' = true := by
  cases m with
  | nil => rfl
  | cons c m =>
    obtain ⟨k, v⟩ := c
    simp only [Memory.wfAbove, Bool.and_eq_true] at h ⊢
    refine ⟨⟨?_, h.1.2⟩, h.2⟩
    cases lo' with
    | none => rfl
    | some l' =>
      obtain ⟨l, rfl, hle⟩ := hl l' rfl
      simp only [decide_eq_true_eq] at h ⊢
      omega

/-- In a list whose keys are all above `lo`, a key not above `lo` is unlisted. -/
theorem Memory.read_of_wfAbove {m : Memory} {l a : Nat} (h : m.wfAbove (some l) = true)
    (ha : a ≤ l) : m.read a = unlistedByte := by
  induction m generalizing l with
  | nil => rfl
  | cons c m ih =>
    obtain ⟨k, v⟩ := c
    simp only [Memory.wfAbove, Bool.and_eq_true, decide_eq_true_eq] at h
    have hk : a ≠ k := by omega
    simp only [Memory.read, hk, if_false]
    exact ih h.2 (by omega)

/-- A write keeps the canonical form. -/
theorem Memory.wfAbove_write {m : Memory} {lo : Option Nat} {a : Nat} {v : Byte}
    (h : m.wfAbove lo = true) (ha : ∀ l, lo = some l → l < a) :
    (m.write a v).wfAbove lo = true := by
  induction m generalizing lo with
  | nil =>
    simp only [Memory.write]
    split
    · rfl
    · rename_i hv
      cases lo with
      | none => simp [Memory.wfAbove, hv]
      | some l => simp [Memory.wfAbove, hv, ha l rfl]
  | cons c m ih =>
    obtain ⟨k, w⟩ := c
    have h0 := h
    simp only [Memory.wfAbove, Bool.and_eq_true, decide_eq_true_eq] at h
    simp only [Memory.write]
    split
    · rename_i hlt
      split
      · exact h0
      · rename_i hv
        cases lo with
        | none => simp_all [Memory.wfAbove]
        | some l => simp_all [Memory.wfAbove]
    · split
      · rename_i hlt heq
        subst heq
        split
        · refine Memory.wfAbove_of_weaker h.2 ?_
          intro l hl
          exact ⟨a, rfl, (ha l hl).le⟩
        · rename_i hv
          cases lo with
          | none => simp_all [Memory.wfAbove]
          | some l => simp_all [Memory.wfAbove]
      · rename_i hlt hne
        have := ih (lo := some k) h.2 (by intro l hl; simp only [Option.some.injEq] at hl; omega)
        cases lo with
        | none => simp_all [Memory.wfAbove]
        | some l => simp_all [Memory.wfAbove]

theorem Memory.wf_write {m : Memory} (a : Nat) (v : Byte) (h : m.wf = true) :
    (m.write a v).wf = true :=
  Memory.wfAbove_write h (by intro l hl; cases hl)

theorem Memory.read_write_same_above {m : Memory} {lo : Option Nat} (a : Nat) (v : Byte)
    (h : m.wfAbove lo = true) : (m.write a v).read a = v := by
  induction m generalizing lo with
  | nil =>
    simp only [Memory.write]
    split
    · rename_i hv
      exact hv.symm
    · simp [Memory.read]
  | cons c m ih =>
    obtain ⟨k, w⟩ := c
    simp only [Memory.wfAbove, Bool.and_eq_true] at h
    simp only [Memory.write]
    split
    · rename_i hlt
      split
      · rename_i hv
        have hk : a ≠ k := by omega
        simp only [Memory.read, hk, if_false]
        rw [Memory.read_of_wfAbove h.2 (by omega), hv]
      · simp [Memory.read]
    · split
      · rename_i hlt heq
        subst heq
        split
        · rename_i hv
          rw [Memory.read_of_wfAbove h.2 le_rfl, hv]
        · simp [Memory.read]
      · rename_i hlt hne
        simp only [Memory.read, hne, if_false]
        exact ih h.2

/-- Reading what was written. -/
theorem Memory.read_write_same {m : Memory} (a : Nat) (v : Byte) (h : m.wf = true) :
    (m.write a v).read a = v := Memory.read_write_same_above a v h

/-- Reading anywhere else. -/
theorem Memory.read_write_other (m : Memory) {a b : Nat} (v : Byte) (h : b ≠ a) :
    (m.write a v).read b = m.read b := by
  induction m with
  | nil =>
    simp only [Memory.write]
    split <;> simp [Memory.read, h]
  | cons c m ih =>
    obtain ⟨k, w⟩ := c
    simp only [Memory.write]
    split
    · split <;> simp [Memory.read, h]
    · split
      · rename_i hlt heq
        subst heq
        split <;> simp [Memory.read, h]
      · simp only [Memory.read, ih]

/-- Whatever raster is presented, its cells are in canonical form. -/
theorem rasterOf_wf (pixels : List Pixel) : (rasterOf pixels).wf = true := by
  have h : ∀ (ps : List Pixel) (m : Memory), m.wf = true →
      (ps.foldl (fun m p => m.write (rasterKey p.x.toNat p.y.toNat p.c.num) p.v) m).wf = true := by
    intro ps
    induction ps with
    | nil => intro m hm; exact hm
    | cons p ps ih => intro m hm; exact ih _ (Memory.wf_write _ _ hm)
  exact h pixels [] rfl

/-- Triples with coordinates of 16 bits have keys of their own. -/
theorem rasterKey_inj {x y c x' y' c' : Nat} (hx : x < 65536) (hy : y < 65536) (hx' : x' < 65536)
    (hy' : y' < 65536) (h : rasterKey x y c = rasterKey x' y' c') : x = x' ∧ y = y' ∧ c = c' := by
  unfold rasterKey at h
  omega

theorem Channel.num_inj {c c' : Channel} (h : c.num = c'.num) : c = c' := by
  cases c <;> cases c' <;> simp_all [Channel.num]

end Sys2Proof.Machine
end

