-- ==== Sys2Proof/Laws/PerInstr.lean ====
section
/-! SUPPORT. The family Encoded, one lemma per constructor of Instr: every instruction stands on the
wire as at least one byte, so there is no instruction of zero length. -/

namespace Sys2Proof.Laws.Encoded

open Sys2Proof

/-- The instruction's encoding has at least one byte. -/
def Statement (i : Instr) : Prop := (Sys2Proof.encode i).bytes ≠ []

theorem esc : Statement .esc := List.cons_ne_nil _ _

theorem unesc : Statement .unesc := List.cons_ne_nil _ _

theorem xsum : Statement .xsum := List.cons_ne_nil _ _

theorem frameBuild : Statement .frameBuild := List.cons_ne_nil _ _

theorem frameParse : Statement .frameParse := List.cons_ne_nil _ _

theorem ackDecode : Statement .ackDecode := List.cons_ne_nil _ _

theorem subpktFmt : Statement .subpktFmt := List.cons_ne_nil _ _

theorem streamSend : Statement .streamSend := List.cons_ne_nil _ _

theorem bmpPack : Statement .bmpPack := List.cons_ne_nil _ _

theorem textPayload : Statement .textPayload := List.cons_ne_nil _ _

theorem cmdText : Statement .cmdText := List.cons_ne_nil _ _

theorem cmdMode : Statement .cmdMode := List.cons_ne_nil _ _

theorem reservedOp (port : Agent) (op : BitVec 4) :
    Statement (.reservedOp port op) := List.cons_ne_nil _ _

theorem pair01 (side : Agent) :
    Statement (.pair01 side) := List.cons_ne_nil _ _

theorem pair02 (side : Agent) :
    Statement (.pair02 side) := List.cons_ne_nil _ _

theorem pair03 (side : Agent) :
    Statement (.pair03 side) := List.cons_ne_nil _ _

theorem pairLenient (s : Byte) :
    Statement (.pairLenient s) := List.cons_ne_nil _ _

theorem plain (side : Agent) (b : Byte) :
    Statement (.plain side b) := List.cons_ne_nil _ _

theorem sof (side : Agent) :
    Statement (.sof side) := List.cons_ne_nil _ _

theorem eof (side : Agent) :
    Statement (.eof side) := List.cons_ne_nil _ _

theorem frame (side : Agent) (tag : Byte) (payload : Bytes) :
    Statement (.frame side tag payload) := List.cons_ne_nil _ _

theorem tagText : Statement .tagText := List.cons_ne_nil _ _

theorem tagMode : Statement .tagMode := List.cons_ne_nil _ _

theorem mode1 : Statement .mode1 := List.cons_ne_nil _ _

theorem mode2 : Statement .mode2 := List.cons_ne_nil _ _

theorem mode3 : Statement .mode3 := List.cons_ne_nil _ _

theorem mode4 : Statement .mode4 := List.cons_ne_nil _ _

theorem mode5 : Statement .mode5 := List.cons_ne_nil _ _

theorem mode6 : Statement .mode6 := List.cons_ne_nil _ _

theorem mode7 : Statement .mode7 := List.cons_ne_nil _ _

theorem mode8 : Statement .mode8 := List.cons_ne_nil _ _

theorem subpkt (total index : Half) (chunk : Bytes) :
    Statement (.subpkt total index chunk) := List.cons_ne_nil _ _

theorem bitmapColumn (word : Half) :
    Statement (.bitmapColumn word) := List.cons_ne_nil _ _

theorem text (caption bitmap : Bytes) :
    Statement (.text caption bitmap) := List.cons_ne_nil _ _

theorem modePayload (mode : Byte) :
    Statement (.modePayload mode) := List.cons_ne_nil _ _

theorem ack (ackType ackId : Byte) (seq : Half) (status : Byte) :
    Statement (.ack ackType ackId seq status) := List.cons_ne_nil _ _

theorem statusOk : Statement .statusOk := List.cons_ne_nil _ _

end Sys2Proof.Laws.Encoded
end

