-- ==== Sys2Proof/Laws/Units.lean ====
section
/-! SUPPORT. What each unit's realisation does, said once: the runs of `EE`, `XS`, `FB`, `SP`, `TP` and
`BP` as one update of the agent. -/

namespace Sys2Proof.Machine

/-! ### `EE` -/

/-- The `EE` step sends the byte's wire form and touches nothing else (R102). -/
theorem TxAgent.escEmit_eq (t : TxAgent) (b : Byte) :
    t.escEmit b = { t with out := t.out ++ escapeByte b } := by
  unfold TxAgent.escEmit escapeByte
  split <;> simp [TxAgent.emit]

/-- `EE` over an input sends its escaped form (R102). -/
theorem foldl_escEmit (a : Bytes) (t : TxAgent) :
    a.foldl TxAgent.escEmit t = { t with out := t.out ++ escape a } := by
  induction a generalizing t with
  | nil => simp [escape]
  | cons b r ih => simp [ih, TxAgent.escEmit_eq, escape]

theorem escape_append (x y : Bytes) : escape (x ++ y) = escape x ++ escape y := by
  induction x with
  | nil => rfl
  | cons b r ih => simp [escape, ih]

theorem escape_singleton (b : Byte) : escape [b] = escapeByte b := by simp [escape]

/-! ### `XS` -/

/-- Absorbing an input (R112). -/
theorem foldl_xsAbsorb (a : Bytes) (t : TxAgent) :
    a.foldl TxAgent.xsAbsorb t = { t with xsAcc := a.foldl (· ^^^ ·) t.xsAcc } := by
  induction a generalizing t with
  | nil => rfl
  | cons b r ih => simp [ih, TxAgent.xsAbsorb]

/-- `put` over an input: emitted and absorbed (R136). -/
theorem foldl_put (a : Bytes) (t : TxAgent) :
    a.foldl TxAgent.put t =
      { t with out := t.out ++ a, xsAcc := a.foldl (· ^^^ ·) t.xsAcc } := by
  induction a generalizing t with
  | nil => simp
  | cons b r ih => simp [ih, TxAgent.put, TxAgent.xsAbsorb, TxAgent.emit]

/-! ### `FB` -/

/-- Line `PAY` over an inner payload that `FB.cnt` counts (R122). -/
theorem foldl_fbPay (a : Bytes) (t : TxAgent) (h : t.fbCnt.toNat = a.length)
    (hp : t.fbPhase = payOrEof t.fbCnt) :
    a.foldl TxAgent.fbPay t =
      { t with out := t.out ++ escape a, fbCnt := 0, fbPhase := .eof } := by
  induction a generalizing t with
  | nil =>
    have h0 : t.fbCnt = 0 := by
      apply BitVec.eq_of_toNat_eq
      simpa using h
    cases t
    simp_all [escape, payOrEof]
  | cons b r ih =>
    have hc : (t.fbPay b).fbCnt.toNat = r.length := by
      simp only [TxAgent.fbPay, BitVec.toNat_sub]
      simp only [List.length_cons] at h
      have := t.fbCnt.isLt
      simp
      omega
    rw [List.foldl_cons, ih _ hc rfl]
    simp [TxAgent.fbPay, TxAgent.escEmit_eq, escape]

/-- `FB`'s run delivers the frame (R120, R122). -/
theorem TxAgent.fbRun_eq (t : TxAgent) (tag : Byte) (a : Bytes) (h : a.length ≤ INNER_MAX) :
    t.fbRun tag a =
      { t with
        out := [], fbPhase := .done, fbCnt := 0, closed := t.closed ++ [frameBytes tag a]
        sent := t.sent ++ [frameBytes tag a] } := by
  simp only [INNER_MAX] at h
  simp only [TxAgent.fbRun]
  rw [foldl_fbPay]
  · simp [TxAgent.fbEof, TxAgent.fbTag, TxAgent.fbLenLo, TxAgent.fbLenHi, TxAgent.fbSof,
      TxAgent.fbStart, TxAgent.escEmit_eq, TxAgent.emit, TxAgent.deliver, frameBytes, frameBody,
      u16be, escape, List.append_assoc]
  · simp only [TxAgent.fbTag, TxAgent.fbLenLo, TxAgent.fbLenHi, TxAgent.fbSof, TxAgent.fbStart,
      TxAgent.escEmit_eq, TxAgent.emit]
    exact half_toNat (by omega)
  · simp [TxAgent.fbTag, TxAgent.fbLenLo, TxAgent.fbLenHi, TxAgent.fbSof, TxAgent.fbStart,
      TxAgent.escEmit_eq, TxAgent.emit]

/-! ### `SP` -/

theorem TxAgent.put_eq (t : TxAgent) (b : Byte) :
    t.put b = { t with out := t.out ++ [b], xsAcc := t.xsAcc ^^^ b } := rfl

/-- A formed sub-packet stands in the open buffer; its registers are loaded (R135, R136). -/
theorem TxAgent.spForm_eq (t : TxAgent) (total index : Half) (chunk : Bytes) :
    t.spForm total index chunk =
      { t with
        out := subpacketBytes total index chunk, spTotalLen := total, spSeqIdx := index
        spClen := BitVec.ofNat 8 chunk.length
        xsAcc := checksum (subpacketHead total index chunk) } := by
  simp [TxAgent.spForm, TxAgent.spLoad, foldl_put, TxAgent.putHalf, TxAgent.put_eq, TxAgent.emit,
    TxAgent.xsClear, subpacketBytes, subpacketHead, checksum, u16be]

/-! ### `TP` -/

/-- `TP.cnt` after a phase's bytes have been counted down. -/
theorem foldl_tpEmit (a : Bytes) (t : TxAgent) :
    a.foldl TxAgent.tpEmit t =
      { t with out := t.out ++ a, tpCnt := a.foldl (fun n _ => n - 1) t.tpCnt } := by
  induction a generalizing t with
  | nil => simp
  | cons b r ih => simp [ih, TxAgent.tpEmit, TxAgent.emit]

/-- A phase of `TP` emits its bytes (R156). -/
theorem TxAgent.tpPhaseRun_eq (t : TxAgent) (phase : TpPhase) (bytes : Bytes) :
    t.tpPhaseRun phase bytes =
      { t with
        out := t.out ++ bytes, tpPhase := phase
        tpCnt := bytes.foldl (fun n _ => n - 1) (half bytes.length) } := by
  simp only [TxAgent.tpPhaseRun, foldl_tpEmit]

/-- `TP`'s run appends the Text payload to the open buffer (R154, R156). -/
theorem TxAgent.tpRun_eq (t : TxAgent) (bitmap caption : Bytes) :
    t.tpRun bitmap caption =
      { t with
        out := t.out ++ textPayloadBytes bitmap caption, tpPhase := .done, tpCnt := 0 } := by
  simp only [TxAgent.tpRun, TxAgent.tpPhaseRun_eq, textPayloadBytes, u16be, List.append_assoc,
    List.cons_append, List.nil_append]

end Sys2Proof.Machine
end

