-- ==== Sys2Proof/Laws/Streams.lean ====
section
/-! SUPPORT. What the loop of `SP` and the loops of `BP` do, said once. -/

namespace Sys2Proof.Machine

/-! ### `SP`'s loop (R139) -/

/-- `SP.clen` of a chunk is in its range (R31). -/
theorem chunkLen_le (a : Bytes) (i : Nat) :
    (BitVec.ofNat 8 (chunkAt a i).length).toNat ≤ MAX_CHUNK := by
  have := chunkAt_length_le a i
  simp only [MAX_CHUNK] at this ⊢
  simp only [BitVec.toNat_ofNat]
  omega

/-- `XS.acc` after sub-packet `i` of a stream: its checksum (R136, R139). -/
def streamAcc (a : Bytes) (i : Nat) : Byte :=
  checksum (subpacketHead (half a.length) (half i) (chunkAt a i))

/-- One round of the loop at sub-packet `i`: its frame is delivered, the registers advance (R139). -/
theorem TxAgent.spRound_eq (t : TxAgent) (tag : Byte) (a : Bytes) (i : Nat)
    (hlen : a.length ≤ FIELD_MAX) (hl : t.spTotalLen = half a.length)
    (ho : t.spOff.toNat = MAX_CHUNK * i) (hs : t.spSeqIdx = half i) :
    t.spRound tag a =
      { t with
        out := [], fbPhase := .done, fbCnt := 0
        closed := t.closed ++ [streamFrame tag a i], sent := t.sent ++ [streamFrame tag a i]
        spOff := t.spOff + half (min MAX_CHUNK (a.length - MAX_CHUNK * i))
        spSeqIdx := half i + 1
        spClen := BitVec.ofNat 8 (chunkAt a i).length
        xsAcc := checksum (subpacketHead (half a.length) (half i) (chunkAt a i)) } := by
  have hL : (half a.length).toNat = a.length := half_toNat hlen
  have hn : t.spNextLen = min MAX_CHUNK (a.length - MAX_CHUNK * i) := by
    rw [TxAgent.spNextLen, hl, hL, ho]
  have hc : (a.drop t.spOff.toNat).take t.spNextLen = chunkAt a i := by
    rw [ho, hn, chunkAt]
    rcases Nat.le_total MAX_CHUNK (a.length - MAX_CHUNK * i) with h | h
    · rw [Nat.min_eq_left h]
    · rw [Nat.min_eq_right h, List.take_of_length_le (by simp),
        List.take_of_length_le (by simpa using h)]
  have hb := chunkAt_length_le a i
  simp only [MAX_CHUNK] at hb
  have hf : (subpacketBytes (half a.length) (half i) (chunkAt a i)).length ≤ INNER_MAX := by
    rw [subpacketBytes_length]
    simp only [INNER_MAX]
    omega
  simp only [TxAgent.spRound, hc, hl, hs, TxAgent.spForm_eq]
  rw [TxAgent.fbRun_eq _ _ _ hf, hn]
  rfl

/-- The whole loop from sub-packet `i` on: the remaining frames are delivered in order, the registers
end at the stream's length and count and at the last sub-packet's length and checksum (R137, R139). -/
theorem TxAgent.spLoop_eq (tag : Byte) (a : Bytes) (hlen : a.length ≤ FIELD_MAX) (fuel : Nat) :
    ∀ (t : TxAgent) (i : Nat), i ≤ chunkCount a.length → t.spTotalLen = half a.length →
      t.spOff.toNat = min (MAX_CHUNK * i) a.length → t.spSeqIdx = half i →
      a.length - MAX_CHUNK * i ≤ fuel →
      ∃ o acc clen ph cnt,
        t.spLoop tag a fuel =
          { t with
            out := o, xsAcc := acc, spClen := clen, fbPhase := ph, fbCnt := cnt
            spOff := half a.length, spSeqIdx := half (chunkCount a.length)
            closed := t.closed ++
              (List.range' i (chunkCount a.length - i)).map (streamFrame tag a)
            sent := t.sent ++
              (List.range' i (chunkCount a.length - i)).map (streamFrame tag a) } ∧
        (i < chunkCount a.length → o = [] ∧ ph = .done ∧ cnt = 0 ∧
          clen = BitVec.ofNat 8 (chunkAt a (chunkCount a.length - 1)).length ∧
          acc = streamAcc a (chunkCount a.length - 1)) ∧
        (i = chunkCount a.length →
          o = t.out ∧ acc = t.xsAcc ∧ clen = t.spClen ∧ ph = t.fbPhase ∧ cnt = t.fbCnt) := by
  have hL : (half a.length).toNat = a.length := half_toNat hlen
  simp only [FIELD_MAX] at hlen
  have hN : chunkCount a.length = (a.length + 127) / 128 := rfl
  -- at the last index the offset is the length and nothing is sent
  have hend : ∀ (t : TxAgent), t.spTotalLen = half a.length →
      t.spOff.toNat = a.length → t.spSeqIdx = half (chunkCount a.length) →
      t = { t with
            spOff := half a.length, spSeqIdx := half (chunkCount a.length)
            closed := t.closed ++ (List.range' (chunkCount a.length) 0).map (streamFrame tag a)
            sent := t.sent ++ (List.range' (chunkCount a.length) 0).map (streamFrame tag a) } := by
    intro t _ h2 h3
    have : t.spOff = half a.length := BitVec.eq_of_toNat_eq (by rw [h2, hL])
    rw [← this, ← h3]
    simp
  induction fuel with
  | zero =>
    intro t i hi hl ho hs hfuel
    have hge : a.length ≤ 128 * i := by simp only [MAX_CHUNK] at hfuel; omega
    have hi' : i = chunkCount a.length := by omega
    subst hi'
    rw [Nat.min_eq_right (by simpa [MAX_CHUNK] using hge)] at ho
    refine ⟨t.out, t.xsAcc, t.spClen, t.fbPhase, t.fbCnt, ?_, fun h => absurd h (lt_irrefl _),
      fun _ => ⟨rfl, rfl, rfl, rfl, rfl⟩⟩
    rw [TxAgent.spLoop, Nat.sub_self]
    exact hend t hl ho hs
  | succ fuel ih =>
    intro t i hi hl ho hs hfuel
    rw [TxAgent.spLoop]
    by_cases hlt : 128 * i < a.length
    · have ho' : t.spOff.toNat = MAX_CHUNK * i := by
        rw [ho, Nat.min_eq_left (by simp only [MAX_CHUNK]; omega)]
      have hi2 : i < chunkCount a.length := by omega
      rw [if_pos (by rw [hl, hL, ho']; simpa [MAX_CHUNK] using hlt),
        TxAgent.spRound_eq t tag a i (by simpa [FIELD_MAX] using hlen) hl ho' hs]
      have hseq : half i + 1 = half (i + 1) := by
        apply BitVec.eq_of_toNat_eq
        have h1 : (half i).toNat = i := half_toNat (by omega)
        have h2 : (half (i + 1)).toNat = i + 1 := half_toNat (by omega)
        simp only [BitVec.toNat_add, h1, h2]
        simp
        omega
      have hadv : (t.spOff + half (min MAX_CHUNK (a.length - MAX_CHUNK * i))).toNat =
          min (MAX_CHUNK * (i + 1)) a.length := by
        simp only [MAX_CHUNK] at ho' ⊢
        rw [BitVec.toNat_add, ho', half_toNat (by omega)]
        omega
      have key := ih
        { t with
          out := [], fbPhase := .done, fbCnt := 0
          closed := t.closed ++ [streamFrame tag a i], sent := t.sent ++ [streamFrame tag a i]
          spOff := t.spOff + half (min MAX_CHUNK (a.length - MAX_CHUNK * i))
          spSeqIdx := half i + 1
          spClen := BitVec.ofNat 8 (chunkAt a i).length
          xsAcc := checksum (subpacketHead (half a.length) (half i) (chunkAt a i)) }
        (i + 1) (by omega) hl hadv hseq (by simp only [MAX_CHUNK] at hfuel ⊢; omega)
      obtain ⟨o, acc, clen, ph, cnt, heq, h1, h2⟩ := key
      have hsplit : chunkCount a.length - i = (chunkCount a.length - (i + 1)) + 1 := by omega
      refine ⟨o, acc, clen, ph, cnt, ?_, ?_, fun h => absurd h (by omega)⟩
      · rw [heq, hsplit, List.range'_succ]
        simp
      · intro _
        rcases Nat.lt_or_ge (i + 1) (chunkCount a.length) with h | h
        · exact h1 h
        · obtain ⟨r1, r2, r3, r4, r5⟩ := h2 (by omega)
          have hlast : chunkCount a.length - 1 = i := by omega
          exact ⟨r1, r4, r5, by rw [r3, hlast], by rw [r2, hlast, streamAcc]⟩
    · have hi' : i = chunkCount a.length := by omega
      subst hi'
      have ho' : t.spOff.toNat = a.length := by
        rw [ho, Nat.min_eq_right (by simp only [MAX_CHUNK]; omega)]
      rw [if_neg (by rw [hl, hL, ho']; exact lt_irrefl _)]
      refine ⟨t.out, t.xsAcc, t.spClen, t.fbPhase, t.fbCnt, ?_, fun h => absurd h (lt_irrefl _),
        fun _ => ⟨rfl, rfl, rfl, rfl, rfl⟩⟩
      rw [Nat.sub_self]
      exact hend t hl ho' hs

/-- `STREAM.SEND`'s run delivers the frames of the stream and ends at its last sub-packet; an empty
stream touches no register of a sub-packet (R137, R139). -/
theorem TxAgent.spRun_eq (t : TxAgent) (tag : Byte) (a : Bytes) (hlen : a.length ≤ FIELD_MAX) :
    ∃ o acc clen ph cnt,
      t.spRun tag a =
        { t with
          out := o, xsAcc := acc, spClen := clen, fbPhase := ph, fbCnt := cnt
          spTotalLen := half a.length, spOff := half a.length
          spSeqIdx := half (chunkCount a.length)
          closed := t.closed ++ (List.range (chunkCount a.length)).map (streamFrame tag a)
          sent := t.sent ++ (List.range (chunkCount a.length)).map (streamFrame tag a) } ∧
      (a ≠ [] → o = [] ∧ ph = .done ∧ cnt = 0 ∧
        clen = BitVec.ofNat 8 (chunkAt a (chunkCount a.length - 1)).length ∧
        acc = streamAcc a (chunkCount a.length - 1)) ∧
      (a = [] → o = t.out ∧ acc = t.xsAcc ∧ clen = t.spClen ∧ ph = t.fbPhase ∧ cnt = t.fbCnt) := by
  obtain ⟨o, acc, clen, ph, cnt, heq, h1, h2⟩ :=
    TxAgent.spLoop_eq tag a hlen a.length (t.spStart a.length) 0 (Nat.zero_le _) rfl
      (by simp [TxAgent.spStart]) rfl (by omega)
  refine ⟨o, acc, clen, ph, cnt, ?_, ?_, ?_⟩
  · rw [TxAgent.spRun, heq]
    simp [TxAgent.spStart, List.range_eq_range']
  · intro ha
    apply h1
    have : 0 < a.length := List.length_pos_iff.mpr ha
    simp only [chunkCount, MAX_CHUNK]
    omega
  · intro ha
    subst ha
    exact h2 (by simp [chunkCount, MAX_CHUNK])

/-! ### `BP`'s loops (R153) -/

/-- Sixteen shifts put row `y` at bit `15 - y`: after `k` rows the shifted word, scaled, is the sum. -/
theorem shiftedRows_eq (f : Nat → Bool) (k : Nat) (hk : k ≤ 16) :
    let shifted := (List.range k).foldl
      (fun (v : Half) y => (v <<< 1) ||| (if f y then 1 else 0)) 0
    let summed := (List.range k).foldl
      (fun (v : Half) y => if f y then v + ((1 : Half) <<< (15 - y)) else v) 0
    shifted.toNat < 2 ^ k ∧ summed.toNat = shifted.toNat * 2 ^ (16 - k) := by
  induction k with
  | zero => simp
  | succ k ih =>
    obtain ⟨h1, h2⟩ := ih (by omega)
    simp only [List.range_succ, List.foldl_append, List.foldl_cons, List.foldl_nil]
    generalize (List.range k).foldl
      (fun (v : Half) y => (v <<< 1) ||| (if f y then 1 else 0)) 0 = v at h1 h2
    generalize (List.range k).foldl
      (fun (v : Half) y => if f y then v + ((1 : Half) <<< (15 - y)) else v) 0 = w at h2
    have hpow : 2 ^ (16 - k) = 2 * 2 ^ (15 - k) := by
      rw [show 16 - k = (15 - k) + 1 by omega, Nat.pow_succ]
      omega
    have h15 : 2 ^ k * 2 ^ (15 - k) = 2 ^ 15 := by
      rw [← Nat.pow_add]
      congr 1
      omega
    have hle : 2 ^ k ≤ 2 ^ 15 := Nat.pow_le_pow_right (by omega) (by omega)
    have hbit : ∀ b : Bool, ((v <<< 1) ||| (if b then (1 : Half) else 0)).toNat =
        2 * v.toNat + b.toNat := by
      intro b
      have hs : (v <<< 1).toNat = v.toNat <<< 1 := by
        rw [BitVec.toNat_shiftLeft, Nat.shiftLeft_eq]
        omega
      have hb : (if b then (1 : Half) else 0).toNat = b.toNat := by cases b <;> rfl
      rw [BitVec.toNat_or, hs, hb, ← Nat.shiftLeft_add_eq_or_of_lt (by cases b <;> simp),
        Nat.shiftLeft_eq]
      omega
    rw [hbit]
    have hv : v.toNat * 2 ^ (15 - k) + 2 ^ (15 - k) ≤ 2 ^ 15 := by
      calc v.toNat * 2 ^ (15 - k) + 2 ^ (15 - k) = (v.toNat + 1) * 2 ^ (15 - k) := by ring
        _ ≤ 2 ^ k * 2 ^ (15 - k) := Nat.mul_le_mul_right _ h1
        _ = 2 ^ 15 := h15
    have h16 : 16 - (k + 1) = 15 - k := by omega
    rw [h16]
    constructor
    · rw [Nat.pow_succ]
      cases f k <;> simp <;> omega
    · rw [hpow] at h2
      cases hf : f k
      · simp only [Bool.false_eq_true, if_false, Bool.toNat_false, Nat.add_zero, h2]
        ring
      · have hone : ((1 : Half) <<< (15 - k)).toNat = 2 ^ (15 - k) := by
          rw [BitVec.toNat_shiftLeft, Nat.shiftLeft_eq]
          have : 2 ^ (15 - k) ≤ 2 ^ 15 := Nat.pow_le_pow_right (by omega) (by omega)
          simp
          omega
        have h3 : w.toNat = 2 * (v.toNat * 2 ^ (15 - k)) := by rw [h2]; ring
        simp only [if_true, BitVec.toNat_add, hone, h3, Bool.toNat_true]
        have h4 : (2 * v.toNat + 1) * 2 ^ (15 - k) =
            2 * (v.toNat * 2 ^ (15 - k)) + 2 ^ (15 - k) := by ring
        rw [h4]
        have : 0 < 2 ^ (15 - k) := Nat.two_pow_pos _
        omega

/-- The rows of one column, as `BP` shifts them in. -/
theorem foldl_bpShift (m : Memory) (rows : List Nat) (t : TxAgent) :
    ∃ r, rows.foldl (TxAgent.bpShift m) t =
      { t with
        bpRow := r
        bpColWord := rows.foldl
          (fun (v : Half) y =>
            (v <<< 1) ||| (if isLit (Raster m t.bpX.toNat y t.bpChan.toNat) then 1 else 0))
          t.bpColWord } := by
  induction rows generalizing t with
  | nil => exact ⟨t.bpRow, rfl⟩
  | cons y rows ih =>
    obtain ⟨r, hr⟩ := ih (t.bpShift m y)
    exact ⟨r, by rw [List.foldl_cons, hr]; rfl⟩

/-- One column emits its column word (R150, R153). -/
theorem TxAgent.bpColumn_eq (m : Memory) (t : TxAgent) (x : Nat) (hx : x ≤ 65535) :
    ∃ r, t.bpColumn m x =
      { t with
        bpX := half x, bpRow := r, bpColWord := columnWord m x t.bpChan.toNat
        out := t.out ++ u16be (columnWord m x t.bpChan.toNat) } := by
  obtain ⟨r, hr⟩ := foldl_bpShift m (List.range ROWS) { t with bpX := half x, bpColWord := 0 }
  have hw := (shiftedRows_eq (fun y => isLit (Raster m x y t.bpChan.toNat)) 16 le_rfl).2
  simp only [Nat.sub_self, Nat.pow_zero, Nat.mul_one] at hw
  have hcw : (List.range ROWS).foldl
      (fun (v : Half) y =>
        (v <<< 1) ||| (if isLit (Raster m x y t.bpChan.toNat) then 1 else 0)) 0 =
      columnWord m x t.bpChan.toNat := (BitVec.eq_of_toNat_eq hw).symm
  simp only [half_toNat hx, hcw] at hr
  refine ⟨r, ?_⟩
  rw [TxAgent.bpColumn, hr]
  simp [TxAgent.bpEmit, TxAgent.emit, u16be]

/-- The columns of one channel: the last one's word stays in `BP.col_word` (R153). -/
theorem foldl_bpColumn (m : Memory) (xs : List Nat) (t : TxAgent) (hxs : ∀ x ∈ xs, x ≤ 65535) :
    ∃ x r, xs.foldl (TxAgent.bpColumn m) t =
      { t with
        bpX := x, bpRow := r
        bpColWord := xs.foldl (fun _ x => columnWord m x t.bpChan.toNat) t.bpColWord
        out := t.out ++ xs.flatMap fun x => u16be (columnWord m x t.bpChan.toNat) } := by
  induction xs generalizing t with
  | nil => exact ⟨t.bpX, t.bpRow, by simp⟩
  | cons x xs ih =>
    obtain ⟨r, hr⟩ := TxAgent.bpColumn_eq m t x (hxs x (by simp))
    obtain ⟨x', r', h'⟩ := ih (t.bpColumn m x) (fun y hy => hxs y (by simp [hy]))
    exact ⟨x', r', by rw [List.foldl_cons, h', hr]; simp⟩

/-- The channels in their order (R153). -/
theorem foldl_bpChannel (m : Memory) (width : Nat) (hw : width ≤ 65536) (cs : List Nat)
    (t : TxAgent) (hcs : ∀ c ∈ cs, c < 4) :
    ∃ x r, cs.foldl (TxAgent.bpChannel m width) t =
      { t with
        bpChan := cs.foldl (fun _ c => BitVec.ofNat 2 c) t.bpChan, bpX := x, bpRow := r
        bpColWord := cs.foldl
          (fun w c => (List.range width).foldl (fun _ x => columnWord m x c) w) t.bpColWord
        out := t.out ++
          cs.flatMap fun c => (List.range width).flatMap fun x => u16be (columnWord m x c) } := by
  induction cs generalizing t with
  | nil => exact ⟨t.bpX, t.bpRow, by simp⟩
  | cons c cs ih =>
    have hc : (BitVec.ofNat 2 c).toNat = c := by
      have := hcs c (by simp)
      simp only [BitVec.toNat_ofNat]
      omega
    obtain ⟨x, r, h⟩ := foldl_bpColumn m (List.range width)
      { t with bpChan := BitVec.ofNat 2 c } (by intro x hx; simp at hx; omega)
    obtain ⟨x', r', h'⟩ := ih (t.bpChannel m width c) (fun y hy => hcs y (by simp [hy]))
    refine ⟨x', r', ?_⟩
    rw [List.foldl_cons, h', TxAgent.bpChannel, h]
    simp [hc]

/-- `BP.col_word` after the packer has run: the last column of the last channel, and its start value
where there is no column (R32, R153). -/
def lastColumnWord (m : Memory) (width : Nat) : Half :=
  if width = 0 then 0 else columnWord m (width - 1) 2

/-- `BP`'s run appends the bitmap to the open buffer and ends at the last column (R150, R153). -/
theorem TxAgent.bpRun_eq (t : TxAgent) (m : Memory) (width : Nat) (hw : width ≤ 65536) :
    ∃ x r, t.bpRun m width =
      { t with
        bpChan := 2, bpX := x, bpRow := r, bpColWord := lastColumnWord m width
        out := t.out ++ bitmapBytes m width } := by
  obtain ⟨x, r, h⟩ := foldl_bpChannel m width hw (List.range CHANNELS) t.bpStart
    (by intro c hc; simp [CHANNELS] at hc; omega)
  refine ⟨x, r, ?_⟩
  rw [TxAgent.bpRun, h]
  cases width with
  | zero => rfl
  | succ n => simp [List.range_succ, CHANNELS, lastColumnWord, TxAgent.bpStart, bitmapBytes]

end Sys2Proof.Machine
end

