-- ==== Sys2Proof/Tests/Slice0.lean ====
section
/-! SUPPORT. Tests. Expected values are the spec's own: the vectors of 95_test_vectors.md and words
written out from the tables of 30_encoding.md. After them, for every statement with hypotheses, a
concrete state and operands that meet them. -/

namespace Sys2Proof.Tests

open Sys2Proof Sys2Proof.Machine

/-! ### Helpers -/

/-- A `TX` request with no operands. -/
def tx0 : TxLatches := TxLatches.reset

/-- The machine after reset with these `TX` latches. -/
def txState (l : TxLatches) : State := { State.reset with tx := { State.reset.tx with lat := l } }

/-- The machine after reset with these bytes in `RX`'s latch `A`. -/
def rxState (a : Bytes) : State :=
  { State.reset with rx := { State.reset.rx with lat := { op := 0, a := a } } }

/-- One step from reset on one `TX` request. -/
def txRun (r : TxLatches) : Answer := step { State.reset with inputs := [.txRequest r] }

/-- One step from reset on one `RX` request. -/
def rxRun (op : BitVec 4) (a : Bytes) : Answer :=
  step { State.reset with inputs := [.rxRequest { op := op, a := a }] }

/-- The response at `TX`'s port after a step. -/
def txAns : Answer → Option Response
  | .next s => s.tx.resp
  | _ => none

/-- The response at `RX`'s port after a step. -/
def rxAns : Answer → Option Response
  | .next s => s.rx.resp
  | _ => none

/-- The machine after a step. -/
def stateAfter : Answer → Option State
  | .next s => some s
  | _ => none

/-- The messages delivered after a step. -/
def sentBy : Answer → List Bytes
  | .next s => s.tx.sent
  | _ => []

/-- The raster of program P2. -/
def rasterP2 : Memory :=
  rasterOf
    ((List.range 16).flatMap fun y =>
      [⟨0, half y, .r, if 2 ≤ y ∧ y ≤ 13 then 200 else 0⟩,
        ⟨0, half y, .g, if y = 0 ∨ y = 15 then 76 else if y = 1 then 75 else 10⟩])

/-! ### WellFormed: each check refuses an ill-formed term -/

theorem test_wf_reserved_op : (Instr.reservedOp .tx 0).wf = false := by decide
theorem test_wf_reserved_op_ok : (Instr.reservedOp .rx 0).wf = true := by decide
theorem test_wf_lenient_five : (Instr.pairLenient 5).wf = false := by decide
theorem test_wf_lenient_six : (Instr.pairLenient 6).wf = false := by decide
theorem test_wf_lenient_seven : (Instr.pairLenient 7).wf = false := by decide
theorem test_wf_plain_written : (Instr.plain .tx 3).wf = false := by decide
theorem test_wf_plain_read : (Instr.plain .rx 2).wf = false := by decide
theorem test_wf_plain_read_ok : (Instr.plain .rx 3).wf = true := by decide
theorem test_wf_frame : (Instr.frame .tx 5 (List.replicate 65535 0)).wf = false := by
  simp only [Instr.wf, List.length_replicate]
  decide
theorem test_wf_frame_ok : (Instr.frame .tx 5 (List.replicate 65534 0)).wf = true := by
  simp only [Instr.wf, List.length_replicate]
  decide
theorem test_wf_subpkt : (Instr.subpkt 0 0 (List.replicate 129 0)).wf = false := by
  simp [Instr.wf, MAX_CHUNK]
theorem test_wf_caption : (Instr.text (List.replicate 81 0x41) []).wf = false := by
  simp [Instr.wf, CAPTION_MAX]
theorem test_wf_bitmap : (Instr.text [] (List.replicate 65536 0)).wf = false := by
  simp only [Instr.wf, List.length_replicate]
  decide

/-! ### Decoding: a word written out from the spec for every constructor -/

/-- R76. -/
theorem test_decode_requests :
    decode .request .tx [0x00] = .ok .esc ∧ decode .request .rx [0x01] = .ok .unesc ∧
    decode .request .tx [0x02] = .ok .xsum ∧ decode .request .tx [0x03] = .ok .frameBuild ∧
    decode .request .rx [0x04] = .ok .frameParse ∧ decode .request .rx [0x05] = .ok .ackDecode ∧
    decode .request .tx [0x06] = .ok .subpktFmt ∧ decode .request .tx [0x07] = .ok .streamSend ∧
    decode .request .tx [0x08] = .ok .bmpPack ∧ decode .request .tx [0x09] = .ok .textPayload ∧
    decode .request .tx [0x0A] = .ok .cmdText ∧ decode .request .tx [0x0B] = .ok .cmdMode := by
  decide

/-- R79: reserved codes, and codes at the other agent's port. -/
theorem test_decode_refused :
    decode .request .tx [0x0C] = .ok (.reservedOp .tx 12) ∧
    decode .request .rx [0x0F] = .ok (.reservedOp .rx 15) ∧
    decode .request .tx [0x01] = .ok (.reservedOp .tx 1) ∧
    decode .request .rx [0x00] = .ok (.reservedOp .rx 0) ∧
    decode .request .tx [0x10] = .error .opTooWide := by decide

/-- R61, R73, R80. -/
theorem test_decode_escapes :
    decode .escapePair .tx [0x02, 0x05] = .ok (.pair01 .tx) ∧
    decode .escapePair .rx [0x02, 0x06] = .ok (.pair02 .rx) ∧
    decode .escapePair .rx [0x02, 0x07] = .ok (.pair03 .rx) ∧
    decode .escapePair .rx [0x02, 0x08] = .ok (.pairLenient 8) ∧
    decode .escapePair .tx [0x02, 0x08] = .error .notAPair ∧
    decode .plainByte .tx [0x04] = .ok (.plain .tx 4) ∧
    decode .plainByte .tx [0x01] = .error .controlByte ∧
    decode .plainByte .rx [0x03] = .ok (.plain .rx 3) ∧
    decode .plainByte .rx [0x02] = .error .controlByte := by decide

/-- R62, R69, R70. -/
theorem test_decode_markers_tags_modes :
    decode .marker .tx [0x01] = .ok (.sof .tx) ∧ decode .marker .rx [0x03] = .ok (.eof .rx) ∧
    decode .marker .rx [0x02] = .error .notAMarker ∧
    decode .tag .tx [0x02] = .ok .tagText ∧ decode .tag .tx [0x06] = .ok .tagMode ∧
    decode .tag .tx [0x05] = .error .noTagMeaning ∧
    decode .mode .tx [1] = .ok .mode1 ∧ decode .mode .tx [2] = .ok .mode2 ∧
    decode .mode .tx [3] = .ok .mode3 ∧ decode .mode .tx [4] = .ok .mode4 ∧
    decode .mode .tx [5] = .ok .mode5 ∧ decode .mode .tx [6] = .ok .mode6 ∧
    decode .mode .tx [7] = .ok .mode7 ∧ decode .mode .tx [8] = .ok .mode8 ∧
    decode .mode .tx [9] = .error .noModeMeaning := by decide

/-- R62: S8's frame, and a lenient one the builder never writes (2.5). -/
theorem test_decode_frame :
    decode .frame .tx [0x01, 0x00, 0x02, 0x06, 0x06, 0x02, 0x06, 0x03] = .ok (.frame .tx 6 [2]) ∧
    decode .frame .rx [0x01, 0x02, 0x04, 0x02, 0x05, 0x09, 0x03] = .error .lenientFrame ∧
    decode .frame .rx [0x01, 0x00, 0x03] = .error (.notAFrame .shortBody) := by decide

/-- R64, R65, R67, R68. -/
theorem test_decode_formats :
    decode .subpacket .tx [0x00, 0x00, 0x01, 0x00, 0x00, 0x01, 0xAA, 0xAA] =
      .ok (.subpkt 1 0 [0xAA]) ∧
    decode .subpacket .tx [0x00, 0x00, 0x01, 0x00, 0x00, 0x01, 0xAA, 0xAB] =
      .error .wrongChecksum ∧
    decode .columnWord .tx [0x3F, 0xFC] = .ok (.bitmapColumn 0x3FFC) ∧
    decode .modePayload .tx [0x09] = .ok (.modePayload 9) ∧
    decode .ackContent .rx [0x06, 0x07, 0x02, 0x03, 0x00] = .ok (.ack 6 7 515 0) ∧
    decode .ackStatus .rx [0x00] = .ok .statusOk ∧
    decode .ackStatus .rx [0x05] = .error .statusNotOk := by decide

/-- R66: the second payload of 2.9. -/
theorem test_decode_text :
    decode .textPayload .tx
        (List.replicate 24 0 ++ [0x01, 0x41] ++ List.replicate 79 0 ++
          [0x00, 0x06, 0x3F, 0xFC, 0x80, 0x01, 0x00, 0x00]) =
      .ok (.text [0x41] [0x3F, 0xFC, 0x80, 0x01, 0x00, 0x00]) := by decide

/-- Words of the opcode table by number alone (log 8). -/
theorem test_table_words :
    decodeTableWord 8 0x7 = some .streamSend ∧ decodeTableWord 8 0x5 = some .ackDecode ∧
    decodeTableWord 8 0xC = some (.reservedOp .tx 12) ∧
    decodeTableWord 16 0x0205 = some (.pair01 .rx) ∧
    decodeTableWord 16 0x0204 = some (.pairLenient 4) ∧
    decodeTableWord 8 0x41 = some (.plain .rx 0x41) ∧
    decodeTableWord 16 0x3FFC = some (.bitmapColumn 0x3FFC) ∧ decodeTableWord 32 0 = none := by
  decide

/-- Placing a word after reset makes the next step run it. -/
theorem test_fetch_word :
    txAns (step (State.reset.withFetchWord 8 0xB)) =
        some (Response.ok (.buffer [0x01, 0x00, 0x02, 0x06, 0x06, 0x00, 0x03])) ∧
      rxAns (step (State.reset.withFetchWord 8 0x1)) = some (Response.ok (.buffer [])) := by decide

/-! ### The operations, one step each (95_test_vectors.md part 2) -/

/-- S2. -/
theorem test_esc :
    txAns (txRun { tx0 with op := 0, a := [0x03, 0x01, 0x02, 0x00] }) =
      some (Response.ok (.buffer [0x02, 0x07, 0x02, 0x05, 0x02, 0x06, 0x00])) := by decide

/-- 2.2: second bytes outside 5..7; the first error wins over a trailing introducer. -/
theorem test_unesc :
    rxAns (rxRun 1 [0x02, 0xFF]) = some (Response.ok (.buffer [0xFB])) := by decide
theorem test_unesc_first_error :
    rxAns (rxRun 1 [0x02, 0x02, 0x02]) =
      some (Response.error .invalidEscape (some [0x02, 0x02, 0x02]) none) := by decide

/-- 2.3. -/
theorem test_xsum :
    txAns (txRun { tx0 with op := 2, a := [0x01, 0x41, 0x06, 0x3F, 0xFC, 0x80, 0x01] }) =
      some (Response.ok (.byte 0x04)) := by decide

/-- 2.4: the declared length 3 is escaped. -/
theorem test_frame_build :
    sentBy (txRun { tx0 with op := 3, tag := 0xFF, a := [0xAA, 0xBB] }) =
      [[0x01, 0x00, 0x02, 0x07, 0xFF, 0xAA, 0xBB, 0x03]] := by decide

/-- 2.5: the length is checked before the content is found empty. -/
theorem test_frame_parse :
    rxAns (rxRun 4 [0x01, 0x00, 0x02, 0x06, 0x03]) =
      some (Response.error .lengthMismatch (some [0x01, 0x00, 0x02, 0x06, 0x03]) none) := by decide
theorem test_frame_parse_bare_marker :
    rxAns (rxRun 4 [0x01, 0x00, 0x04, 0x09, 0x01, 0x03, 0x03, 0x03]) =
      some (Response.ok (.parsed 0x09 [0x01, 0x03, 0x03])) := by decide

/-- 2.12: the status is the fifth content byte, not the last. -/
theorem test_ack_decode :
    rxAns (rxRun 5 [0x01, 0x00, 0x06, 0x06, 0x00, 0x00, 0x00, 0x09, 0x00, 0x03]) =
      some (Response.error .deviceReportedError
        (some [0x01, 0x00, 0x06, 0x06, 0x00, 0x00, 0x00, 0x09, 0x00, 0x03])
        (some ⟨6, 0, 0, 9⟩)) := by decide
theorem test_ack_decode_pairs :
    rxAns (rxRun 5 [0x01, 0x00, 0x05, 0x06, 0x07, 0x02, 0x06, 0x02, 0x07, 0x00, 0x03]) =
      some (Response.ok (.ack ⟨6, 7, 515, 0⟩)) := by decide

/-- 2.6. -/
theorem test_subpkt_fmt :
    txAns (txRun { tx0 with op := 6, totalLen := 65535, index := 511, a := [1, 2, 3] }) =
      some (Response.ok
        (.buffer [0x00, 0xFF, 0xFF, 0x01, 0xFF, 0x03, 0x01, 0x02, 0x03, 0xFD])) := by decide

/-- 2.7. -/
theorem test_stream_send :
    sentBy (txRun { tx0 with op := 7, tag := 2, a := [0x41] }) =
      [[0x01, 0x00, 0x09, 0x02, 0x06, 0x00, 0x00, 0x02, 0x05, 0x00, 0x00, 0x02, 0x05, 0x41, 0x41,
        0x03]] := by decide
theorem test_stream_send_empty :
    txAns (txRun { tx0 with op := 7, tag := 2 }) = some (Response.ok (.buffers [])) := by decide

/-- 2.8, the fifth raster. -/
theorem test_bmp_pack :
    txAns (step { State.reset with
      raster := rasterP2, inputs := [.txRequest { tx0 with op := 8, width := 1, height := 16 }] }) =
      some (Response.ok (.buffer [0x3F, 0xFC, 0x80, 0x01, 0x00, 0x00])) := by decide
theorem test_bmp_pack_height :
    txAns (txRun { tx0 with op := 8, width := 0, height := 0 }) =
      some (Response.error .unsupportedHeight none none) := by decide

set_option maxRecDepth 20000 in
/-- 2.9. -/
theorem test_text_payload :
    txAns (txRun { tx0 with op := 9, b := [0x41], a := [0x3F, 0xFC, 0x80, 0x01, 0x00, 0x00] }) =
      some (Response.ok (.buffer (List.replicate 24 0 ++ [0x01, 0x41] ++ List.replicate 79 0 ++
        [0x00, 0x06, 0x3F, 0xFC, 0x80, 0x01, 0x00, 0x00]))) := by decide

set_option maxRecDepth 20000 in
/-- 2.11: the blank text of width 0. -/
theorem test_cmd_text :
    sentBy (txRun { tx0 with op := 0xA, width := 0, height := 16 }) =
      [[0x01, 0x00, 0x73, 0x02, 0x06, 0x00, 0x00, 0x6B, 0x00, 0x00, 0x6B] ++
        List.replicate 107 0 ++ [0x00, 0x03]] := by decide
theorem test_cmd_text_height_first :
    txAns (txRun { tx0 with op := 0xA, width := 1, height := 8, b := List.replicate 81 0x41 }) =
      some (Response.error .unsupportedHeight none none) := by decide

/-- S8. -/
theorem test_cmd_mode :
    sentBy (txRun { tx0 with op := 0xB, mode := 2 }) =
      [[0x01, 0x00, 0x02, 0x06, 0x06, 0x02, 0x06, 0x03]] := by decide

/-- 2.13: a misplaced code on each port. -/
theorem test_misplaced :
    txAns (txRun { tx0 with op := 1 }) = some (Response.error .illegalOp none none) ∧
      rxAns (rxRun 0 [0x05]) = some (Response.error .illegalOp none none) := by decide

/-! ### Code points, one step each (log 7) -/

/-- The buffer `TX` is building after one code point written. -/
def outAfter (f : Format) (bytes : Bytes) : Bytes :=
  match step { State.reset with inputs := [.wire f .tx bytes] } with
  | .next s => s.tx.out
  | _ => []

/-- `FP.body` after one code point read. -/
def bodyAfter (f : Format) (bytes : Bytes) : Bytes :=
  match step { State.reset with inputs := [.wire f .rx bytes] } with
  | .next s => s.rx.fpBody
  | _ => []

/-- R61, R69, R70: control values go out as pairs. -/
theorem test_code_points_written :
    outAfter .escapePair [0x02, 0x07] = [0x02, 0x07] ∧ outAfter .tag [0x02] = [0x02, 0x06] ∧
      outAfter .tag [0x06] = [0x06] ∧ outAfter .mode [3] = [0x02, 0x07] ∧
      outAfter .mode [8] = [8] ∧ outAfter .columnWord [0x3F, 0xFC] = [0x3F, 0xFC] := by decide

/-- 2.2 and D10: what a pair, a lenient pair and a bare marker stand for. -/
theorem test_code_points_read :
    bodyAfter .escapePair [0x02, 0x05] = [0x01] ∧ bodyAfter .escapePair [0x02, 0x04] = [0x00] ∧
      bodyAfter .plainByte [0x03] = [0x03] ∧ bodyAfter .ackStatus [0x00] = [0x00] := by decide

/-- A code point whose bytes are none is refused by name. -/
theorem test_not_a_code_point :
    step { State.reset with inputs := [.wire .marker .tx [0x04]] } =
      .refused (.notACodePoint .notAMarker) := rfl

/-! ### Witnesses: what the statements assume can be met -/

theorem witness_decodeReadsWhatEncodeWrites :
    (Instr.frame .tx 5 (List.replicate 65534 0x10)).wf = true ∧
      (Instr.subpkt 0 0 (List.replicate 128 0)).wf = true ∧
      (Instr.text (List.replicate 80 0x41) (List.replicate 65535 0)).wf = true ∧
      (Instr.plain .tx 4).wf = true ∧ (Instr.pairLenient 4).wf = true := by
  simp only [Instr.wf, List.length_replicate]
  decide

theorem witness_decodeAcceptsOnlyEncodings :
    decode .escapePair .rx [0x02, 0x00] = .ok (.pairLenient 0) := by decide

theorem witness_operationCodesBelongToOnePort :
    12 ≤ (12 : BitVec 4).toNat ∧ 12 ≤ (15 : BitVec 4).toNat := by decide

/-- A request waiting at each free port. -/
theorem witness_stepRunsTheDecodedRequest :
    ∃ (s s' : State) (r : TxLatches) (r' : RxLatches),
      s.inputs = [.txRequest r] ∧ s.tx.busy = false ∧ s.tx.resp = none ∧ opOwner r.op = some .tx ∧
      s'.inputs = [.rxRequest r'] ∧ s'.rx.busy = false ∧ s'.rx.resp = none ∧
      opOwner r'.op = some .rx :=
  ⟨{ State.reset with inputs := [.txRequest tx0] },
    { State.reset with inputs := [.rxRequest ⟨4, []⟩] }, tx0, ⟨4, []⟩, rfl, rfl, rfl, rfl, rfl, rfl,
    rfl, rfl⟩

/-- A code point that decodes and one that does not. -/
theorem witness_stepRunsTheDecodedCodePoint :
    let s (b : Byte) : State := { State.reset with inputs := [.wire .marker .rx [b]] }
    (s 1).inputs = .wire .marker .rx [1] :: [] ∧ (s 1).ready .rx = true ∧
      decode .marker .rx [1] = .ok (.sof .rx) ∧
      (s 4).inputs = .wire .marker .rx [4] :: [] ∧ (s 4).ready .rx = true ∧
      decode .marker .rx [4] = .error .notAMarker ∧ Format.marker ≠ .request ∧
      State.ready { State.reset with inputs := [.wire .request .tx [7]] } .tx = true := by decide

/-- A state in which `TX` is busy and a state in which its response is untaken, each with a request at
the head of these events. -/
def txOccupied (behind : List Input) : List State :=
  [{ State.reset with
      tx := { State.reset.tx with busy := true }, inputs := .txRequest tx0 :: behind },
    { State.reset with
      tx := { State.reset.tx with resp := some (Response.ok (.byte 0)) }
      inputs := .txRequest tx0 :: behind }]

/-- The same for `RX`. -/
def rxOccupied (behind : List Input) : List State :=
  [{ State.reset with
      rx := { State.reset.rx with busy := true }, inputs := .rxRequest ⟨1, []⟩ :: behind },
    { State.reset with
      rx := { State.reset.rx with resp := some (Response.ok (.byte 0)) }
      inputs := .rxRequest ⟨1, []⟩ :: behind }]

/-- Requests at occupied agents: alone; before a response taken at either port; before a request of the
other, free agent; and before one more waiting request and a raster. -/
theorem witness_requestToABusyAgentWaits :
    (∀ s ∈ txOccupied [] ++ txOccupied [.take .tx] ++ txOccupied [.take .rx],
      s.tx.busy = true ∨ s.tx.resp ≠ none) ∧
    (∀ s ∈ txOccupied [.rxRequest ⟨1, []⟩],
      s.inputs = [.txRequest tx0, .rxRequest ⟨1, []⟩] ∧ (s.tx.busy = true ∨ s.tx.resp ≠ none) ∧
        s.rx.busy = false ∧ s.rx.resp = none) ∧
    (∀ s ∈ rxOccupied [.txRequest tx0],
      s.inputs = [.rxRequest ⟨1, []⟩, .txRequest tx0] ∧ (s.rx.busy = true ∨ s.rx.resp ≠ none) ∧
        s.tx.busy = false ∧ s.tx.resp = none) ∧
    ∀ s ∈ txOccupied [.txRequest tx0, .raster []],
      s.inputs = .txRequest tx0 :: ([.txRequest tx0] ++ .raster [] :: []) ∧
        (s.tx.busy = true ∨ s.tx.resp ≠ none) ∧
        (∀ j ∈ [Input.txRequest tx0], j.served s = false) ∧
        Input.served s (.raster []) = true := by decide

/-- R240: the request behind an untaken response stays where it is while `RX` runs its own. -/
theorem test_request_waits :
    (txOccupied [.rxRequest ⟨1, [0x41]⟩]).map (fun s => rxAns (step s)) =
        [some (Response.ok (.buffer [0x41])), some (Response.ok (.buffer [0x41]))] ∧
      (txOccupied [.rxRequest ⟨1, [0x41]⟩]).map (fun s => (stateAfter (step s)).map (·.inputs)) =
        [some [.txRequest tx0], some [.txRequest tx0]] := by decide

/-- Nothing waits; and a request waits at a port whose agent waits for ever. -/
theorem witness_nothingToServeChangesNothing :
    (∀ i ∈ State.reset.inputs, i.served State.reset = false) ∧
      let s : State := { State.reset.starve .tx with inputs := [.txRequest tx0] }
      ∀ i ∈ s.inputs, i.served s = false := by decide

theorem witness_takingAResponse :
    ({ State.reset with inputs := [.take .tx] } : State).inputs = .take .tx :: [] ∧
      ({ State.reset with inputs := [.take .rx] } : State).inputs = .take .rx :: [] := by decide

theorem witness_resetKeepsOnlyWhatWasDelivered :
    ({ State.reset with inputs := [.reset] } : State).inputs = .reset :: [] := by decide

/-- The machine after reset with a `TX` request that `rst` cuts short after one frame. -/
def cutState (r : TxLatches) : State := { State.reset with inputs := [.txCutShort r 1] }

set_option maxRecDepth 20000 in
/-- A stream, one too long by a byte, a `CMD.TEXT` that succeeds and one that does not. -/
theorem witness_resetCutsAStreamShort :
    let r : TxLatches := { tx0 with op := 7, tag := 2, a := [0x41] }
    let r' : TxLatches := { tx0 with op := 7, a := List.replicate 65536 0 }
    let c : TxLatches := { tx0 with op := 0xA, width := 0, height := 16 }
    let c' : TxLatches := { tx0 with op := 0xA, width := 1, height := 8 }
    (cutState r).inputs = .txCutShort r 1 :: [] ∧ (cutState r).tx.busy = false ∧
      (cutState r).tx.resp = none ∧ r.op = 0x7 ∧ r.a.length ≤ FIELD_MAX ∧
      r'.op = 0x7 ∧ FIELD_MAX < r'.a.length ∧
      c.op = 0xA ∧ (∃ frames, cmdText c.width c.height State.reset.raster c.b = .ok frames) ∧
      c'.op = 0xA ∧ ∃ e, cmdText c'.width c'.height State.reset.raster c'.b = .error e :=
  ⟨rfl, rfl, rfl, rfl, by decide, rfl, by simp only [List.length_replicate]; decide, rfl, ⟨_, rfl⟩,
    rfl, ⟨_, rfl⟩⟩

set_option maxRecDepth 20000 in
/-- R231: a stream of two frames cut short after the first leaves that one and no response. -/
theorem test_stream_cut_short :
    let t := step (cutState { tx0 with op := 7, tag := 2, a := List.replicate 129 0x41 })
    (sentBy t).length = 1 ∧ txAns t = none := by decide

/-- An operation without frames, a refused request, `FRAME.BUILD` at its bound and past it, `CMD.MODE`,
and an `RX` request. -/
theorem witness_resetAbandonsAnyOtherOperation :
    let op (n : BitVec 4) : TxLatches := { tx0 with op := n }
    (cutState (op 0)).inputs = .txCutShort (op 0) 1 :: [] ∧ (cutState (op 0)).tx.busy = false ∧
      (cutState (op 0)).tx.resp = none ∧
      (∀ n ∈ [(0 : BitVec 4), 1, 2, 4, 5, 6, 8, 9, 12, 15],
        (op n).op ≠ 3 ∧ (op n).op ≠ 7 ∧ (op n).op ≠ 0xA ∧ (op n).op ≠ 0xB) ∧
      (op 3).op = 3 ∧ (op 3).a.length ≤ INNER_MAX ∧
      INNER_MAX < ({ op 3 with a := List.replicate 65535 0 } : TxLatches).a.length ∧
      (op 0xB).op = 0xB ∧
      ({ State.reset with inputs := [.rxCutShort ⟨1, [2]⟩] } : State).inputs =
        .rxCutShort ⟨1, [2]⟩ :: [] := by
  simp only [List.length_replicate]
  decide

/-- Both ports' starved requests, and a starved agent with events behind it that drive no `rst`. -/
theorem witness_starvedAgentWaitsUntilReset :
    let s : State := { State.reset with inputs := [.starve .tx] }
    let s' : State := { State.reset with inputs := [.starve .rx] }
    let b : State := { State.reset.starve .tx with inputs := [.txRequest tx0, .take .tx] }
    let b' : State := { State.reset.starve .rx with inputs := [.rxRequest ⟨1, []⟩, .take .rx] }
    s.inputs = .starve .tx :: [] ∧ s.tx.busy = false ∧ s.tx.resp = none ∧
      s'.inputs = .starve .rx :: [] ∧ s'.rx.busy = false ∧ s'.rx.resp = none ∧
      b.tx.busy = true ∧ .reset ∉ b.inputs ∧ (∀ r, .rxCutShort r ∉ b.inputs) ∧
      (∃ t, step b = .next t) ∧
      b'.rx.busy = true ∧ .reset ∉ b'.inputs ∧ (∀ r k, .txCutShort r k ∉ b'.inputs) ∧
      ∃ t, step b' = .next t :=
  ⟨rfl, rfl, rfl, rfl, rfl, rfl, rfl, by decide, by simp, ⟨_, rfl⟩, rfl, by decide, by simp,
    ⟨_, rfl⟩⟩

theorem witness_changedOperandsAreRefused :
    ({ State.reset with inputs := [.unstable .tx] } : State).inputs = .unstable .tx :: [] ∧
      State.ready { State.reset with inputs := [.unstable .tx] } .tx = true ∧
      State.ready { State.reset with inputs := [.unstable .rx] } .rx = true := by decide

/-- An input that unescapes, and one that does not. -/
theorem witness_unesc :
    unescape (rxState [0x02, 0x05]).rx.lat.a = .ok [0x01] ∧
      unescape (rxState [0x02, 0x02]).rx.lat.a = .error .invalidEscape := by decide

/-- Both sides of `FRAME.BUILD`'s bound, at it. -/
theorem witness_frameBuild :
    (txState { tx0 with a := List.replicate 65534 0x10 }).tx.lat.a.length ≤ INNER_MAX ∧
      INNER_MAX < (txState { tx0 with a := List.replicate 65535 0x00 }).tx.lat.a.length := by
  simp only [txState, List.length_replicate]
  decide

theorem witness_frameParseLeavesTheBody :
    parseFrame (rxState [0x01, 0x00, 0x02, 0x05, 0x09, 0x03]).rx.lat.a = .ok (9, []) := by decide

/-- Both sides of `SUBPKT.FMT`'s bound, at it. -/
theorem witness_subpktFmt :
    (txState { tx0 with a := List.replicate 128 0xFF }).tx.lat.a.length ≤ MAX_CHUNK ∧
      MAX_CHUNK < (txState { tx0 with a := List.replicate 129 0 }).tx.lat.a.length := by
  simp [txState, MAX_CHUNK]

/-- Both sides of `STREAM.SEND`'s bound, at it; a stream that is not empty and one that is. -/
theorem witness_streamSend :
    (txState { tx0 with a := List.replicate 65535 0 }).tx.lat.a.length ≤ FIELD_MAX ∧
      (txState { tx0 with a := [0] }).tx.lat.a ≠ [] ∧ (txState tx0).tx.lat.a = [] ∧
      FIELD_MAX < (txState { tx0 with a := List.replicate 65536 0 }).tx.lat.a.length := by
  simp only [txState, List.length_replicate]
  decide

set_option maxRecDepth 20000 in
/-- Program P3's end, on a shorter stream: the last chunk's length and checksum stay in the registers. -/
theorem test_stream_send_registers :
    (stateAfter (txRun { tx0 with op := 7, tag := 2, a := List.replicate 129 0x41 })).map
        (fun s => (s.tx.spTotalLen, s.tx.spSeqIdx, s.tx.spOff, s.tx.spClen, s.tx.xsAcc)) =
      some (129, 2, 129, 1, 0xC0) := by decide

/-- R153, R32: `BP.col_word` ends at the last column of the last channel, and at 0 with no column. -/
theorem test_bmp_pack_register :
    let lit : List Pixel :=
      (List.range 16).map fun y => ⟨0, half y, .b, if y = 0 then 76 else 0⟩
    (stateAfter (step { State.reset with
        raster := rasterOf lit
        inputs := [.txRequest { tx0 with op := 8, width := 1, height := 16 }] })).map
          (·.tx.bpColWord) = some 0x8000 ∧
      (stateAfter (txRun { tx0 with op := 8, width := 0, height := 16 })).map (·.tx.bpColWord) =
        some 0 := by decide

theorem witness_bmpPack :
    (txState { tx0 with height := 16 }).tx.lat.height = 16 ∧
      (txState { tx0 with height := 15 }).tx.lat.height ≠ 16 ∧
      (txState { tx0 with height := 17 }).tx.lat.height ≠ 16 := by decide

/-- Latches at both limits of `TEXT.PAYLOAD`. -/
def fullText : TxLatches := { tx0 with a := List.replicate 65535 0, b := List.replicate 80 0x41 }

/-- Both limits of `TEXT.PAYLOAD`, met and passed by one. -/
theorem witness_textPayload :
    ((txState fullText).tx.lat.b.length ≤ CAPTION_MAX ∧
      (txState fullText).tx.lat.a.length ≤ FIELD_MAX) ∧
      CAPTION_MAX < (txState { tx0 with b := List.replicate 81 0x41 }).tx.lat.b.length ∧
      FIELD_MAX < (txState { tx0 with a := List.replicate 65536 0 }).tx.lat.a.length := by
  simp only [txState, fullText, List.length_replicate]
  decide

set_option maxRecDepth 20000 in
/-- A `CMD.TEXT` that succeeds, with no column and with one, and `TEXT.PAYLOAD` at both its limits. -/
theorem witness_cmdTextAndTextPayloadSucceed :
    (cmdText 0 16 [] []).isOk = true ∧ (cmdText 1 16 rasterP2 [0x41]).isOk = true ∧
      (0 : Half).toNat = 0 ∧ (1 : Half).toNat ≠ 0 ∧
      (txState fullText).tx.lat.b.length ≤ CAPTION_MAX ∧
      (txState fullText).tx.lat.a.length ≤ FIELD_MAX := by
  simp only [txState, fullText, List.length_replicate]
  decide

/-- The four clauses of `CMD.TEXT`'s outcome, at the limits of width and caption. -/
theorem witness_cmdTextChecksInOrder :
    (15 : Half) ≠ 16 ∧ CAPTION_MAX < (List.replicate 81 (0x41 : Byte)).length ∧
      (List.replicate 80 (0x41 : Byte)).length ≤ CAPTION_MAX ∧ WIDTH_MAX < (10905 : Half).toNat ∧
      (10904 : Half).toNat ≤ WIDTH_MAX := by decide

theorem witness_refusedRequest :
    opOwner 0xC ≠ some .tx ∧ opOwner 0x1 ≠ some .tx ∧ opOwner 0x0 ≠ some .rx ∧
      opOwner 0xF ≠ some .rx := by decide

theorem witness_codePointsWrittenByEe : (0x00 : Byte) ∉ ESC_SET ∧ (0x04 : Byte) ∉ ESC_SET := by decide

theorem witness_codePointsReadByUe :
    State.reset.rx.uePending = false ∧ (0x03 : Byte) ≠ ESC_BYTE ∧ 4 ≤ (0x04 : Byte).toNat ∧
      (0x03 : Byte).toNat < 4 := by decide

/-- A message received byte by byte that parses. -/
theorem witness_endMarkerRead :
    ∃ begun ended parsed : State,
      unescape [0x00, 0x02, 0x05, 0x09] ≠ .error .invalidEscape ∧
      exec (.sof .rx) State.reset = .next begun ∧
      exec (.eof .rx) (begun.receive [0x00, 0x02, 0x05, 0x09]) = .next ended ∧
      exec .frameParse (rxState [0x01, 0x00, 0x02, 0x05, 0x09, 0x03]) = .next parsed :=
  ⟨_, _, _, by decide, rfl, rfl, rfl⟩

/-- `EOF`'s outcomes: a body that parses, an open pair, and a message without its start marker. -/
theorem witness_endMarkerReadCompletes :
    markersOk ([0x01, 0x00, 0x02, 0x05, 0x09] ++ [0x03]) = true ∧
      parseBody [0x00, 0x01, 0x09] = .ok (0x09, []) ∧
      ([0x00, 0x01, 0x09] : Bytes) = 0x00 :: 0x01 :: [0x09] ∧
      markersOk ([0x04] ++ [0x03]) = false := by decide

/-- A message received byte by byte that ends inside a pair. -/
theorem witness_endMarkerRead_truncated :
    ∃ begun ended parsed : State,
      unescape [0x00, 0x02] ≠ .error .invalidEscape ∧
      exec (.sof .rx) State.reset = .next begun ∧
      exec (.eof .rx) (begun.receive [0x00, 0x02]) = .next ended ∧
      exec .frameParse (rxState [0x01, 0x00, 0x02, 0x03]) = .next parsed :=
  ⟨_, _, _, by decide, rfl, rfl, rfl⟩

theorem witness_frameCodePoint : (List.replicate 65534 (0x10 : Byte)).length ≤ INNER_MAX := by
  rw [List.length_replicate]
  decide

theorem witness_formatCodePoints :
    (List.replicate 128 (0xFF : Byte)).length ≤ MAX_CHUNK ∧
      (List.replicate 80 (0x41 : Byte)).length ≤ CAPTION_MAX ∧
      (List.replicate 65535 (0x00 : Byte)).length ≤ FIELD_MAX := by
  simp only [List.length_replicate]
  decide

theorem witness_unescUndoesEsc :
    ∃ t u : State, exec .esc (txState { tx0 with a := [1, 2] }) = .next t ∧
      t.tx.resp = some (Response.ok (.buffer [2, 5, 2, 6])) ∧
      exec .unesc { t with rx := { t.rx with lat := { t.rx.lat with a := [2, 5, 2, 6] } } } =
        .next u :=
  ⟨_, _, rfl, by decide, rfl⟩

/-- An escaped input with an introducer in it, and two inputs that differ in order only. -/
theorem witness_bytes :
    escape [0x00, 0x01] = [0x00] ++ ESC_BYTE :: [0x05] ∧
      List.Perm [0xFF, 0x0F] [(0x0F : Byte), 0xFF] := by decide

theorem witness_wholeSubpacketSumsToZero :
    ∃ t u : State, exec .subpktFmt (txState { tx0 with totalLen := 1, a := [0xAA] }) = .next t ∧
      t.tx.resp = some (Response.ok (.buffer [0, 0, 1, 0, 0, 1, 0xAA, 0xAA])) ∧
      exec .xsum { t with
        tx := { t.tx with lat := { t.tx.lat with a := [0, 0, 1, 0, 0, 1, 0xAA, 0xAA] } } } = .next u :=
  ⟨_, _, rfl, by decide, rfl⟩

theorem witness_frameParseUndoesFrameBuild :
    ∃ t u : State, exec .frameBuild (txState { tx0 with tag := 9 }) = .next t ∧
      t.tx.resp = some (Response.ok (.buffer [1, 0, 2, 5, 9, 3])) ∧
      exec .frameParse { t with rx := { t.rx with lat := { t.rx.lat with a := [1, 0, 2, 5, 9, 3] } } } =
        .next u :=
  ⟨_, _, rfl, by decide, rfl⟩

/-- The functions' round trips: what unescapes, and the least frame built and parsed. -/
theorem witness_roundTrips :
    unescape [0x02, 0x04] = .ok [0x00] ∧ unescape [0x02, 0x05] = .ok [0x01] ∧
      escape [0x41] = escape [0x41] ∧ ([] : Bytes).length ≤ INNER_MAX ∧
      parseFrame [0x01, 0x00, 0x02, 0x05, 0x09, 0x03] = .ok (9, []) ∧
      buildFrame 0x09 [] = .ok [0x01, 0x00, 0x02, 0x05, 0x09, 0x03] := by decide

set_option maxRecDepth 20000 in
/-- An empty stream, and a `CMD.TEXT` that answers frames. -/
theorem witness_emptyStream :
    (txState { tx0 with tag := 2 }).tx.lat.a = [] ∧
      (cmdText 0 16 [] []).isOk = true := by decide

set_option maxRecDepth 20000 in
/-- A stream of two frames: 129 bytes. -/
theorem witness_streamFramesCarryThePayload :
    ∃ (t : State) (frames : List Bytes),
      exec .streamSend (txState { tx0 with tag := 2, a := List.replicate 129 0 }) = .next t ∧
      t.tx.resp = some (Response.ok (.buffers frames)) ∧ frames.length = 2 :=
  ⟨_, _, rfl, rfl, by decide⟩

theorem witness_cmdTextIsItsThreeParts :
    ∃ (whole packed wrapped streamed : State) (payload : Bytes),
      let s := txState { tx0 with width := 0, height := 16, b := [0x41] }
      exec .cmdText s = .next whole ∧
      exec .bmpPack s = .next packed ∧ packed.tx.resp = some (Response.ok (.buffer [])) ∧
      exec .textPayload { packed with tx := { packed.tx with lat := { packed.tx.lat with a := [] } } } =
        .next wrapped ∧
      wrapped.tx.resp = some (Response.ok (.buffer payload)) ∧
      exec .streamSend
        { wrapped with
          tx := { wrapped.tx with lat := { wrapped.tx.lat with a := payload, tag := TAG_TEXT } } } =
        .next streamed :=
  ⟨_, _, _, _, _, rfl, rfl, by decide, rfl, rfl, rfl⟩

/-- A lit and a dark pixel of P2's raster at rows 2 and 1 of column 0, channel R. -/
theorem witness_bitmapBitIsThePixel :
    0 < 3 ∧ 0 < 1 ∧ 15 < 16 ∧ (Raster rasterP2 0 2 0).toNat = 200 ∧
      (Raster rasterP2 0 1 0).toNat = 0 := by decide

theorem witness_presentedRasterReadsBack :
    ({ State.reset with inputs := [.raster [⟨0, 0, .r, 200⟩]] } : State).inputs =
        .raster [⟨0, 0, .r, 200⟩] :: [] ∧
      ((1 : Half), (0 : Half), Channel.r) ≠ (0, 1, .r) := by decide

theorem witness_sides : Instr.side .esc = .tx ∧ Instr.side .unesc = .rx := by decide

theorem witness_agentsCommute :
    ∃ t u : State, Instr.side .cmdMode = .tx ∧ Instr.side .frameParse = .rx ∧
      exec .cmdMode State.reset = .next t ∧ exec .frameParse State.reset = .next u :=
  ⟨_, _, rfl, rfl, rfl, rfl⟩

/-- Two states with other registers and another message sequence, for a `TX` and for an `RX` request. -/
theorem witness_requestsForgetHistory :
    let s := State.reset
    let s' : State := { State.reset with
      tx := { State.reset.tx with xsAcc := 5, sent := [[1, 0, 3]] }
      rx := { State.reset.rx with uePending := true } }
    Instr.isRequest .cmdMode = true ∧ s.tx.lat = s'.tx.lat ∧ s.raster = s'.raster ∧
      Instr.isRequest .unesc = true ∧ s.rx.lat = s'.rx.lat ∧
      (∃ t t', exec .cmdMode s = .next t ∧ exec .cmdMode s' = .next t') ∧
      ∃ t t', exec .unesc s = .next t ∧ exec .unesc s' = .next t' :=
  ⟨by decide, rfl, rfl, by decide, rfl, ⟨_, _, rfl, rfl⟩, ⟨_, _, rfl, rfl⟩⟩

/-- A request that delivers a frame, and one that ends in an error with a response of status 5. -/
theorem witness_requestsDeliverOnlyProperFrames :
    Instr.isRequest .cmdMode = true ∧
      (∃ t, exec .cmdMode State.reset = .next t ∧ t.tx.sent = [[1, 0, 2, 6, 6, 0, 3]]) ∧
      ∃ t r, exec .cmdText State.reset = .next t ∧ t.respAt .tx = some r ∧ r.status ≠ 0 :=
  ⟨by decide, ⟨_, rfl, by decide⟩, ⟨_, _, rfl, rfl, by decide⟩⟩

/-- A state that meets the invariant and steps on: the caller takes a response of success. -/
theorem witness_everyStepKeepsTheInvariant :
    ∃ s t : State, Inv s ∧ step s = .next t := by
  refine ⟨{ State.reset with
    tx := { State.reset.tx with resp := some (Response.ok (.byte 7)) }
    inputs := [.take .tx] }, _, ⟨⟨by decide, by decide, ?_⟩, ?_, rfl⟩, rfl⟩
  · intro r h
    cases h
    exact ⟨Or.inl rfl, by decide, rfl⟩
  · intro r h
    cases h

end Sys2Proof.Tests
end

namespace Sys2Proof.Machine

/-! ## The two agents

What an instruction can do to the machine, said once: an instruction of `TX` takes the agent and
the raster to an agent, one of `RX` the agent to an agent, and neither sees anything else. The
statements about isolation, history and the invariant are read off from this. -/

/-! ### Error kinds a computation can end in -/

/-- Every error this outcome can be is one of `ks`. -/
def ErrorsIn {α : Type} (ks : List ErrorKind) (o : Except ErrorKind α) : Prop :=
  ∀ k, o = .error k → k ∈ ks

/-- The kinds an operation of `TX` ends in (R206, R207, R211). -/
def encodeKinds : List ErrorKind := [.unsupportedHeight, .captionTooLong, .fieldOverflow]

/-- The kinds the parsing operations of `RX` end in (R202 to R204, R209, R210). -/
def decodeKinds : List ErrorKind :=
  [.truncatedEscape, .invalidFraming, .lengthMismatch, .invalidEscape, .shortBody]

section ErrorsIn

variable {α β : Type} {ks : List ErrorKind}

@[simp] theorem errorsIn_ok (a : α) : ErrorsIn ks (.ok a) := by
  intro k h
  cases h

@[simp] theorem errorsIn_error {k : ErrorKind} :
    ErrorsIn ks (.error k : Except ErrorKind α) ↔ k ∈ ks :=
  ⟨fun h => h k rfl, fun h k' hk => by cases hk; exact h⟩

theorem ErrorsIn.map {o : Except ErrorKind α} (h : ErrorsIn ks o) (f : α → β) :
    ErrorsIn ks (o.map f) := by
  cases o with
  | ok a => exact errorsIn_ok _
  | error k => simpa [Except.map] using h

theorem ErrorsIn.bind {o : Except ErrorKind α} {f : α → Except ErrorKind β} (h : ErrorsIn ks o)
    (hf : ∀ a, ErrorsIn ks (f a)) : ErrorsIn ks (o.bind f) := by
  cases o with
  | ok a => exact hf a
  | error k => simpa [Except.bind] using h

theorem ErrorsIn.ite {c : Prop} [Decidable c] {o o' : Except ErrorKind α} (h : ErrorsIn ks o)
    (h' : ErrorsIn ks o') : ErrorsIn ks (if c then o else o') := by
  split
  · exact h
  · exact h'

end ErrorsIn

theorem textPayload_errors (bitmap caption : Bytes) :
    ErrorsIn encodeKinds (textPayload bitmap caption) :=
  .ite (by simp [encodeKinds]) (.ite (by simp [encodeKinds]) (errorsIn_ok _))

theorem unescape_errors (a : Bytes) : ErrorsIn decodeKinds (unescape a) := by
  induction a using unescape.induct with
  | case1 => exact errorsIn_ok _
  | case2 => simp [unescape, decodeKinds]
  | case3 b hb => simp [unescape, hb]
  | case4 s r hs ih => simpa [unescape, hs] using ih.map _
  | case5 s r hs => simp [unescape, hs, decodeKinds]
  | case6 b s r hb ih => simpa [unescape, hb] using ih.map _

theorem parseBody_errors (body : Bytes) : ErrorsIn decodeKinds (parseBody body) := by
  unfold parseBody
  split
  · refine .ite (by simp [decodeKinds]) ?_
    split
    · simp [decodeKinds]
    · exact errorsIn_ok _
  · simp [decodeKinds]

theorem parseFrame_errors (a : Bytes) : ErrorsIn decodeKinds (parseFrame a) :=
  .ite ((unescape_errors _).bind parseBody_errors) (by simp [decodeKinds])

theorem ackFields_errors (content : Bytes) : ErrorsIn decodeKinds (ackFields content) := by
  unfold ackFields
  split
  · exact errorsIn_ok _
  · simp [decodeKinds]

theorem decodeAck_errors (a : Bytes) : ErrorsIn decodeKinds (decodeAck a) :=
  (parseFrame_errors a).bind fun _ => ackFields_errors _

/-! ### Legal responses (R78, R201) -/

theorem legalTx_encodeResponse {o : Except ErrorKind Result} (h : ErrorsIn encodeKinds o) :
    (encodeResponse o).legalTx := by
  cases o with
  | ok r => exact ⟨.inl rfl, by simp [encodeResponse], rfl⟩
  | error k =>
    have hk := h k rfl
    simp only [encodeKinds, List.mem_cons, List.not_mem_nil, or_false] at hk
    rcases hk with rfl | rfl | rfl <;> exact ⟨by decide, by decide, rfl⟩

theorem legalTx_illegalOp : (Response.error .illegalOp none none).legalTx :=
  ⟨by decide, by decide, rfl⟩

theorem legalRx_illegalOp : (Response.error .illegalOp none none).legalRx :=
  ⟨by decide, by decide, by decide⟩

theorem legalRx_ok (r : Result) : (Response.ok r).legalRx :=
  ⟨.inl rfl, by simp, by simp⟩

theorem legalRx_decodeError {k : ErrorKind} (h : k ∈ decodeKinds) (raw : Bytes) :
    (Response.error k (some raw) none).legalRx := by
  simp only [decodeKinds, List.mem_cons, List.not_mem_nil, or_false] at h
  rcases h with rfl | rfl | rfl | rfl | rfl <;>
    simp [Response.legalRx, Response.error, ErrorKind.code]

theorem legalRx_deviceReportedError (raw : Bytes) (f : AckFields) :
    (Response.error .deviceReportedError (some raw) (some f)).legalRx := by
  simp [Response.legalRx, Response.error, ErrorKind.code]

theorem legalRx_decodeResponse {o : Except ErrorKind Result} (raw : Bytes)
    (h : ErrorsIn decodeKinds o) : (decodeResponse raw o).legalRx := by
  cases o with
  | ok r => exact legalRx_ok r
  | error k => exact legalRx_decodeError (h k rfl) raw

theorem legalRx_ackResponse {o : Except ErrorKind AckFields} (raw : Bytes)
    (h : ErrorsIn decodeKinds o) : (ackResponse raw o).legalRx := by
  cases o with
  | ok f =>
    simp only [ackResponse]
    split
    · exact legalRx_ok _
    · exact legalRx_deviceReportedError raw f
  | error k => exact legalRx_decodeError (h k rfl) raw

/-! ### What an operation of `TX` does to its agent -/

/-- Running units of `TX`: latches and busy bit stay, `msgs` are delivered, and `BP.chan` and
`SP.clen` keep what they hold or get a value of their ranges (R31, R32). -/
structure TxAgent.Ran (t t' : TxAgent) (msgs : List Bytes) : Prop where
  lat : t'.lat = t.lat
  busy : t'.busy = t.busy
  sent : t'.sent = t.sent ++ msgs
  bpChan : t'.bpChan = t.bpChan ∨ t'.bpChan.toNat < CHANNELS
  spClen : t'.spClen = t.spClen ∨ t'.spClen.toNat ≤ MAX_CHUNK

theorem TxAgent.Ran.trans {t u v : TxAgent} {ms ns : List Bytes} (h : t.Ran u ms)
    (h' : u.Ran v ns) : t.Ran v (ms ++ ns) where
  lat := h'.lat.trans h.lat
  busy := h'.busy.trans h.busy
  sent := by rw [h'.sent, h.sent, List.append_assoc]
  bpChan := h'.bpChan.elim (fun e => e ▸ h.bpChan) .inr
  spClen := h'.spClen.elim (fun e => e ▸ h.spClen) .inr

/-- An operation of `TX` has ended: its units ran, and the response stands at the port. -/
structure TxAgent.Answered (t t' : TxAgent) (p : Response) (msgs : List Bytes) : Prop
    extends t.Ran t' msgs where
  resp : t'.resp = some p
  legal : p.legalTx

theorem TxAgent.Ran.answered {t u : TxAgent} {msgs : List Bytes} (h : t.Ran u msgs) {p : Response}
    (hp : p.legalTx) :
    t.Answered { u with resp := some p, out := [], closed := [] } p msgs :=
  ⟨⟨h.lat, h.busy, h.sent, h.bpChan, h.spClen⟩, rfl, hp⟩

/-- Units that deliver nothing may run before. -/
theorem TxAgent.Answered.of_ran {t u t' : TxAgent} {p : Response} {msgs : List Bytes}
    (h : t.Ran u []) (h' : u.Answered t' p msgs) : t.Answered t' p msgs :=
  ⟨h.trans h'.toRan, h'.resp, h'.legal⟩

theorem TxAgent.ran_refl (t : TxAgent) : t.Ran t [] :=
  ⟨rfl, rfl, (List.append_nil _).symm, .inl rfl, .inl rfl⟩

/-- What any instruction does to the agent `TX`. -/
structure TxAgent.Kept (t t' : TxAgent) : Prop where
  lat : t'.lat = t.lat
  busy : t'.busy = t.busy
  inv : t.Inv → t'.Inv

theorem TxAgent.Answered.kept {t t' : TxAgent} {p : Response} {msgs : List Bytes}
    (h : t.Answered t' p msgs) : t.Kept t' where
  lat := h.lat
  busy := h.busy
  inv := by
    rintro ⟨hchan, hclen, -⟩
    refine ⟨h.bpChan.elim (fun e => e ▸ hchan) id, h.spClen.elim (fun e => e ▸ hclen) id, ?_⟩
    intro r hr
    rw [h.resp, Option.some.injEq] at hr
    exact hr ▸ h.legal

theorem TxAgent.Ran.close {t u : TxAgent} {msgs : List Bytes} (h : t.Ran u msgs) :
    t.Ran u.close msgs :=
  ⟨h.lat, h.busy, h.sent, h.bpChan, h.spClen⟩

/-! ### The units of `TX` keep latches, busy bit and ranges -/

theorem TxAgent.fbRun_ran (t : TxAgent) (tag : Byte) {a : Bytes} (h : a.length ≤ INNER_MAX) :
    t.Ran (t.begin.fbRun tag a) [frameBytes tag a] := by
  rw [TxAgent.fbRun_eq _ _ _ h]
  exact ⟨rfl, rfl, rfl, .inl rfl, .inl rfl⟩

theorem TxAgent.spForm_ran (t : TxAgent) (total index : Half) {chunk : Bytes}
    (h : chunk.length ≤ MAX_CHUNK) : t.Ran (t.begin.spForm total index chunk) [] := by
  have hclen : (BitVec.ofNat 8 chunk.length).toNat ≤ MAX_CHUNK :=
    (BitVec.toNat_ofNat .. ▸ Nat.mod_le _ _).trans h
  rw [TxAgent.spForm_eq]
  exact ⟨rfl, rfl, (List.append_nil _).symm, .inl rfl, .inr hclen⟩

theorem TxAgent.tpRun_ran (t : TxAgent) (bitmap caption : Bytes) :
    t.Ran (t.begin.tpRun bitmap caption) [] := by
  rw [TxAgent.tpRun_eq]
  exact ⟨rfl, rfl, (List.append_nil _).symm, .inl rfl, .inl rfl⟩

/-- `BP`'s run ends at the last channel and leaves the bitmap in the open buffer (R153). -/
theorem TxAgent.bpRun_ran (t : TxAgent) (m : Memory) (width : Half) :
    t.Ran (t.begin.bpRun m width.toNat) [] ∧
      (t.begin.bpRun m width.toNat).out = bitmapBytes m width.toNat ∧
      (t.begin.bpRun m width.toNat).closed = [] := by
  have hwidth : width.toNat ≤ 65536 := by
    have := width.isLt
    omega
  obtain ⟨x, r, h⟩ := TxAgent.bpRun_eq t.begin m width.toNat hwidth
  have hchan : (2 : BitVec 2).toNat < CHANNELS := by decide
  rw [h]
  exact ⟨⟨rfl, rfl, (List.append_nil _).symm, .inr hchan, .inl rfl⟩, List.nil_append _, rfl⟩

/-- The loop of `SP` delivers the stream's frames and leaves `SP.clen` at a chunk's length
(R139). -/
theorem TxAgent.spRun_ran (t : TxAgent) (tag : Byte) {a : Bytes} (h : a.length ≤ FIELD_MAX) :
    t.Ran (t.begin.spRun tag a) ((List.range (chunkCount a.length)).map (streamFrame tag a)) ∧
      (t.begin.spRun tag a).closed =
        (List.range (chunkCount a.length)).map (streamFrame tag a) := by
  obtain ⟨o, acc, clen, ph, cnt, hrun, hsome, hnone⟩ := TxAgent.spRun_eq t.begin tag a h
  have hclen : clen = t.spClen ∨ clen.toNat ≤ MAX_CHUNK := by
    by_cases ha : a = []
    · obtain ⟨-, -, hold, -, -⟩ := hnone ha
      exact .inl hold
    · obtain ⟨-, -, -, hlast, -⟩ := hsome ha
      exact .inr (hlast ▸ chunkLen_le a _)
  rw [hrun]
  exact ⟨⟨rfl, rfl, rfl, .inl rfl, hclen⟩, rfl⟩

/-! ### How operations of `TX` end -/

/-- The messages that stay delivered of an operation with these frames: none where it fails
(R216). -/
def delivered : Except ErrorKind (List Bytes) → List Bytes
  | .ok frames => frames
  | .error _ => []

/-- An error raised by `TX` after its units ran. -/
theorem State.raiseTx_answered {t u : TxAgent} {msgs : List Bytes} (h : t.Ran u msgs)
    (k : ErrorKind) (hk : k ∈ encodeKinds) :
    ∃ t', (∀ s : State, s.raiseTx u k = { s with tx := t' }) ∧
      t.Answered t' (encodeResponse (.error k)) msgs :=
  ⟨_, fun s => State.raiseTx_eq s u k, h.answered (legalTx_encodeResponse (errorsIn_error.mpr hk))⟩

/-- A result buffer answered after the units of `TX` ran. -/
theorem State.respondBuffer_answered {t u : TxAgent} {msgs : List Bytes} (h : t.Ran u msgs)
    {z : Bytes} (hz : u.closed.headD [] = z) :
    ∃ t', (∀ s : State, s.respondBuffer u = { s with tx := t' }) ∧
      t.Answered t' (encodeResponse (.ok (.buffer z))) msgs := by
  subst hz
  exact ⟨_, fun s => State.respondBuffer_eq s u,
    h.answered (legalTx_encodeResponse (errorsIn_ok _))⟩

/-- The delivered buffers answered after the units of `TX` ran. -/
theorem State.respondBuffers_answered {t u : TxAgent} {msgs : List Bytes} (h : t.Ran u msgs)
    {zs : List Bytes} (hz : u.closed = zs) :
    ∃ t', (∀ s : State, s.respondBuffers u = { s with tx := t' }) ∧
      t.Answered t' (encodeResponse (.ok (.buffers zs))) msgs := by
  subst hz
  exact ⟨_, fun s => State.respondBuffers_eq s u,
    h.answered (legalTx_encodeResponse (errorsIn_ok _))⟩

/-- Building a frame (R120): the response is `build_frame`'s, and its frame is delivered. -/
theorem State.buildAndRespond_answered (t : TxAgent) (tag : Byte) (a : Bytes) :
    ∃ t', (∀ s : State, s.tx = t → s.buildAndRespond tag a = { s with tx := t' }) ∧
      t.Answered t' (encodeResponse ((buildFrame tag a).map .buffer))
        (delivered ((buildFrame tag a).map ([·]))) := by
  unfold State.buildAndRespond buildFrame
  split
  · obtain ⟨t', heq, hans⟩ := State.raiseTx_answered t.ran_refl .fieldOverflow (by decide)
    exact ⟨t', fun s hs => hs ▸ heq s, hans⟩
  · rename_i h
    have hle : a.length ≤ INNER_MAX := Nat.le_of_not_lt h
    obtain ⟨t', heq, hans⟩ := State.respondBuffer_answered (t.fbRun_ran tag hle)
      (z := frameBytes tag a) (by simp [TxAgent.fbRun_eq _ _ _ hle])
    exact ⟨t', fun s hs => hs ▸ heq s, hans⟩

/-- Formatting a sub-packet (R135): the response is `subpacket`'s. -/
theorem State.formatAndRespond_answered (t : TxAgent) (total index : Half) (chunk : Bytes) :
    ∃ t', (∀ s : State, s.tx = t → s.formatAndRespond total index chunk = { s with tx := t' }) ∧
      t.Answered t' (encodeResponse ((subpacket total index chunk).map .buffer)) [] := by
  unfold State.formatAndRespond subpacket
  split
  · obtain ⟨t', heq, hans⟩ := State.raiseTx_answered t.ran_refl .fieldOverflow (by decide)
    exact ⟨t', fun s hs => hs ▸ heq s, hans⟩
  · rename_i h
    obtain ⟨t', heq, hans⟩ := State.respondBuffer_answered
      (t.spForm_ran total index (Nat.le_of_not_lt h)).close
      (z := subpacketBytes total index chunk) (by simp [TxAgent.spForm_eq])
    exact ⟨t', fun s hs => hs ▸ heq s, hans⟩

/-- Sending a stream from the agent state `t` (R137): the response is `stream_frames`', and its
frames are delivered. -/
theorem State.streamAndRespond_answered (t : TxAgent) (tag : Byte) (a : Bytes) :
    ∃ t', (∀ s : State, s.streamAndRespond t tag a = { s with tx := t' }) ∧
      t.Answered t' (encodeResponse ((streamFrames tag a).map .buffers))
        (delivered (streamFrames tag a)) := by
  unfold State.streamAndRespond streamFrames
  split
  · exact State.raiseTx_answered t.ran_refl .fieldOverflow (by decide)
  · rename_i h
    obtain ⟨hran, hclosed⟩ := t.spRun_ran tag (Nat.le_of_not_lt h)
    exact State.respondBuffers_answered hran hclosed

/-- `text_payload` fails exactly as the unit's checks do (R154). -/
theorem textPayload_eq (bitmap caption : Bytes) :
    textPayload bitmap caption =
      (textError bitmap caption).elim (.ok (textPayloadBytes bitmap caption)) .error := by
  unfold textPayload textError
  split
  · rfl
  · split <;> rfl

theorem textError_mem_encodeKinds {bitmap caption : Bytes} {k : ErrorKind}
    (h : textError bitmap caption = some k) : k ∈ encodeKinds :=
  textPayload_errors bitmap caption k (by rw [textPayload_eq, h]; rfl)

/-- Wrapping a bitmap (R154): the response is `text_payload`'s. -/
theorem State.wrapAndRespond_answered (t : TxAgent) (bitmap caption : Bytes) :
    ∃ t', (∀ s : State, s.tx = t → s.wrapAndRespond bitmap caption = { s with tx := t' }) ∧
      t.Answered t' (encodeResponse ((textPayload bitmap caption).map .buffer)) [] := by
  rw [textPayload_eq]
  unfold State.wrapAndRespond
  cases h : textError bitmap caption with
  | some k =>
    obtain ⟨t', heq, hans⟩ := State.raiseTx_answered t.ran_refl k (textError_mem_encodeKinds h)
    exact ⟨t', fun s hs => hs ▸ heq s, hans⟩
  | none =>
    obtain ⟨t', heq, hans⟩ := State.respondBuffer_answered (t.tpRun_ran bitmap caption).close
      (z := textPayloadBytes bitmap caption) (by simp [TxAgent.tpRun_eq])
    exact ⟨t', fun s hs => hs ▸ heq s, hans⟩

/-- `cmd_text` at the right height fails as the checks on caption and size do (R165). -/
theorem cmdText_of_height {height : Half} (width : Half) (m : Memory) (caption : Bytes)
    (h : height.toNat = ROWS) :
    cmdText width height m caption =
      (textError (bitmapBytes m width.toNat) caption).elim
        (streamFrames TAG_TEXT (textPayloadBytes (bitmapBytes m width.toNat) caption)) .error := by
  have hpack : packBitmap width height m = .ok (bitmapBytes m width.toNat) := if_neg (not_not.mpr h)
  rw [cmdText, hpack]
  simp only [Except.bind, textPayload_eq]
  generalize streamFrames TAG_TEXT = send
  cases textError (bitmapBytes m width.toNat) caption with
  | some k => rfl
  | none => rfl

/-- Composing a Text command after its height check (R165): the response is `cmd_text`'s, and its
frames are delivered. -/
theorem State.composeText_answered (t : TxAgent) (m : Memory) (h : t.lat.height.toNat = ROWS) :
    ∃ t', (∀ s : State, s.tx = t → s.raster = m → s.composeText = { s with tx := t' }) ∧
      t.Answered t' (encodeResponse ((cmdText t.lat.width t.lat.height m t.lat.b).map .buffers))
        (delivered (cmdText t.lat.width t.lat.height m t.lat.b)) := by
  have hcmd := cmdText_of_height t.lat.width m t.lat.b h
  obtain ⟨hpacked, hout, -⟩ := t.bpRun_ran m t.lat.width
  generalize hp : t.begin.bpRun m t.lat.width.toNat = packed at hpacked hout
  generalize bitmapBytes m t.lat.width.toNat = bitmap at hout hcmd
  rw [hcmd]
  cases he : textError bitmap t.lat.b with
  | some k =>
    obtain ⟨t', heq, hans⟩ := State.raiseTx_answered hpacked k (textError_mem_encodeKinds he)
    refine ⟨t', fun s hs hm => ?_, hans⟩
    simp only [State.composeText, State.txB, hs, hm, hp, hout, he, heq]
  | none =>
    rw [Option.elim_none]
    have hwrapped : t.Ran (packed.begin.tpRun bitmap t.lat.b) [] :=
      hpacked.trans (packed.tpRun_ran bitmap t.lat.b)
    have hwout : (packed.begin.tpRun bitmap t.lat.b).out = textPayloadBytes bitmap t.lat.b := by
      rw [TxAgent.tpRun_eq, TxAgent.begin_out, List.nil_append]
    obtain ⟨t', heq, hans⟩ := State.streamAndRespond_answered (packed.begin.tpRun bitmap t.lat.b)
      TAG_TEXT (textPayloadBytes bitmap t.lat.b)
    refine ⟨t', fun s hs hm => ?_, .of_ran hwrapped hans⟩
    simp only [State.composeText, State.txB, hs, hm, hp, hout, he, hwout, heq]

/-! ### Requests of `TX` -/

/-- On every state this meaning answers by a next state in which only `TX` differs, and `TX` ends as
an operation with this response and these messages, functions of its latches and the raster. -/
def TxAnswers (e : State → Answer) (p : TxLatches → Memory → Response)
    (msgs : TxLatches → Memory → List Bytes) : Prop :=
  ∀ t m, ∃ t', (∀ s : State, s.tx = t → s.raster = m → e s = .next { s with tx := t' }) ∧
    t.Answered t' (p t.lat m) (msgs t.lat m)

theorem TxAnswers.of_state {e : State → Answer} {p : TxLatches → Response}
    {msgs : TxLatches → List Bytes} (g : TxLatches → State → State)
    (he : ∀ s : State, e s = .next (g s.tx.lat s))
    (hg : ∀ t, ∃ t', (∀ s : State, s.tx = t → g t.lat s = { s with tx := t' }) ∧
      t.Answered t' (p t.lat) (msgs t.lat)) :
    TxAnswers e (fun l _ => p l) (fun l _ => msgs l) := by
  intro t m
  obtain ⟨t', heq, hans⟩ := hg t
  refine ⟨t', fun s hs _ => ?_, hans⟩
  rw [he, hs, heq s hs]

theorem execEsc_answers :
    TxAnswers execEsc (fun l _ => encodeResponse (.ok (.buffer (escape l.a)))) fun _ _ => [] := by
  intro t m
  have hran : t.Ran (t.lat.a.foldl TxAgent.escEmit t.begin).close [] := by
    rw [foldl_escEmit]
    exact ⟨rfl, rfl, (List.append_nil _).symm, .inl rfl, .inl rfl⟩
  obtain ⟨t', heq, hans⟩ :=
    State.respondBuffer_answered hran (z := escape t.lat.a) (by simp [foldl_escEmit])
  exact ⟨t', fun s hs _ => congrArg _ (hs ▸ heq s), hans⟩

theorem execXsum_answers :
    TxAnswers execXsum (fun l _ => encodeResponse (.ok (.byte (checksum l.a)))) fun _ _ => [] := by
  intro t m
  refine ⟨{ t with
    out := [], closed := [], xsAcc := checksum t.lat.a
    resp := some (encodeResponse (.ok (.byte (checksum t.lat.a)))) }, ?_, ?_⟩
  · rintro s rfl -
    simp only [execXsum, foldl_xsAbsorb]
    rfl
  · exact ⟨⟨rfl, rfl, (List.append_nil _).symm, .inl rfl, .inl rfl⟩, rfl,
      legalTx_encodeResponse (errorsIn_ok _)⟩

theorem execFrameBuild_answers :
    TxAnswers execFrameBuild (fun l _ => encodeResponse ((buildFrame l.tag l.a).map .buffer))
      fun l _ => delivered ((buildFrame l.tag l.a).map ([·])) :=
  .of_state (fun l s => s.buildAndRespond l.tag l.a) (fun _ => rfl)
    fun t => State.buildAndRespond_answered t t.lat.tag t.lat.a

theorem execSubpktFmt_answers :
    TxAnswers execSubpktFmt
      (fun l _ => encodeResponse ((subpacket l.totalLen l.index l.a).map .buffer)) fun _ _ => [] :=
  .of_state (fun l s => s.formatAndRespond l.totalLen l.index l.a) (fun _ => rfl)
    fun t => State.formatAndRespond_answered t t.lat.totalLen t.lat.index t.lat.a

theorem execStreamSend_answers :
    TxAnswers execStreamSend (fun l _ => encodeResponse ((streamFrames l.tag l.a).map .buffers))
      fun l _ => delivered (streamFrames l.tag l.a) := by
  intro t m
  obtain ⟨t', heq, hans⟩ := State.streamAndRespond_answered t t.lat.tag t.lat.a
  exact ⟨t', fun s hs _ => congrArg _ (hs ▸ heq s), hans⟩

theorem execBmpPack_answers :
    TxAnswers execBmpPack (fun l m => encodeResponse ((packBitmap l.width l.height m).map .buffer))
      fun _ _ => [] := by
  intro t m
  unfold packBitmap
  dsimp only
  split
  · rename_i h
    obtain ⟨t', heq, hans⟩ := State.raiseTx_answered t.ran_refl .unsupportedHeight (by decide)
    refine ⟨t', fun s hs _ => ?_, hans⟩
    rw [execBmpPack, hs, if_pos h, heq]
  · rename_i h
    obtain ⟨hran, hout, hclosed⟩ := t.bpRun_ran m t.lat.width
    obtain ⟨t', heq, hans⟩ := State.respondBuffer_answered hran.close
      (z := bitmapBytes m t.lat.width.toNat) (by rw [TxAgent.close_closed, hclosed, hout]; rfl)
    refine ⟨t', fun s hs hm => ?_, hans⟩
    rw [execBmpPack, hs, hm, if_neg h, heq, hm]

theorem execTextPayload_answers :
    TxAnswers execTextPayload (fun l _ => encodeResponse ((textPayload l.a l.b).map .buffer))
      fun _ _ => [] :=
  .of_state (fun l s => s.wrapAndRespond l.a l.b) (fun _ => rfl)
    fun t => State.wrapAndRespond_answered t t.lat.a t.lat.b

theorem execCmdText_answers :
    TxAnswers execCmdText
      (fun l m => encodeResponse ((cmdText l.width l.height m l.b).map .buffers))
      fun l m => delivered (cmdText l.width l.height m l.b) := by
  intro t m
  by_cases h : t.lat.height.toNat = ROWS
  · obtain ⟨t', heq, hans⟩ := State.composeText_answered t m h
    refine ⟨t', fun s hs hm => ?_, hans⟩
    rw [execCmdText, if_neg (by simpa [hs] using h), heq s hs hm]
  · have hcmd : cmdText t.lat.width t.lat.height m t.lat.b = .error .unsupportedHeight := by
      rw [cmdText, packBitmap, if_pos h]
      rfl
    obtain ⟨t', heq, hans⟩ := State.raiseTx_answered t.ran_refl .unsupportedHeight (by decide)
    simp only [hcmd]
    refine ⟨t', fun s hs _ => ?_, hans⟩
    rw [execCmdText, hs, if_pos h, heq]

theorem execCmdMode_answers :
    TxAnswers execCmdMode (fun l _ => encodeResponse ((cmdMode l.mode).map .buffer))
      fun l _ => delivered ((cmdMode l.mode).map ([·])) :=
  .of_state (fun l s => s.buildAndRespond TAG_MODE [l.mode]) (fun _ => rfl)
    fun t => State.buildAndRespond_answered t TAG_MODE [t.lat.mode]

/-- A refused request at `TX`'s port (R79, R212). -/
theorem execReservedOp_tx_answers (op : BitVec 4) :
    TxAnswers (execReservedOp .tx op) (fun _ _ => Response.error .illegalOp none none)
      fun _ _ => [] :=
  .of_state (fun _ s => s.refuse .tx) (fun _ => rfl) fun t =>
    ⟨{ t with resp := some (Response.error .illegalOp none none) }, fun s hs => by subst hs; rfl,
      ⟨rfl, rfl, (List.append_nil _).symm, .inl rfl, .inl rfl⟩, rfl, legalTx_illegalOp⟩

/-- Every request of `TX` is answered, by a function of its latches and the raster. -/
theorem exec_txRequest_answers (i : Instr) (hside : Instr.side i = .tx)
    (hreq : Instr.isRequest i = true) : ∃ p msgs, TxAnswers (exec i) p msgs :=
  match i, hside, hreq with
  | .esc, _, _ => ⟨_, _, execEsc_answers⟩
  | .xsum, _, _ => ⟨_, _, execXsum_answers⟩
  | .frameBuild, _, _ => ⟨_, _, execFrameBuild_answers⟩
  | .subpktFmt, _, _ => ⟨_, _, execSubpktFmt_answers⟩
  | .streamSend, _, _ => ⟨_, _, execStreamSend_answers⟩
  | .bmpPack, _, _ => ⟨_, _, execBmpPack_answers⟩
  | .textPayload, _, _ => ⟨_, _, execTextPayload_answers⟩
  | .cmdText, _, _ => ⟨_, _, execCmdText_answers⟩
  | .cmdMode, _, _ => ⟨_, _, execCmdMode_answers⟩
  | .reservedOp .tx op, _, _ => ⟨_, _, execReservedOp_tx_answers op⟩

/-! ### Every instruction of `TX` -/

/-- On every state this meaning answers by a next state in which only `TX` differs; what `TX`
becomes depends on `TX` and the raster alone. -/
def TxKeeps (e : State → Answer) : Prop :=
  ∀ t m, ∃ t', (∀ s : State, s.tx = t → s.raster = m → e s = .next { s with tx := t' }) ∧
    TxAgent.Kept t t'

theorem TxAnswers.keeps {e : State → Answer} {p : TxLatches → Memory → Response}
    {msgs : TxLatches → Memory → List Bytes} (h : TxAnswers e p msgs) : TxKeeps e := by
  intro t m
  obtain ⟨t', heq, hans⟩ := h t m
  exact ⟨t', heq, hans.kept⟩

theorem TxKeeps.of_agent {e : State → Answer} (f : TxAgent → TxAgent)
    (he : ∀ s : State, e s = .next { s with tx := f s.tx }) (hf : ∀ t : TxAgent, t.Kept (f t)) :
    TxKeeps e :=
  fun t _ => ⟨f t, fun s hs _ => hs ▸ he s, hf t⟩

/-- A code point that is answered as an operation with its fields. -/
theorem TxKeeps.of_answered {g : State → State} {p : Response} {msgs : List Bytes}
    (hg : ∀ t, ∃ t', (∀ s : State, s.tx = t → g s = { s with tx := t' }) ∧ t.Answered t' p msgs) :
    TxKeeps fun s => .next (g s) := by
  intro t m
  obtain ⟨t', heq, hans⟩ := hg t
  exact ⟨t', fun s hs _ => congrArg _ (heq s hs), hans.kept⟩

theorem TxAgent.escEmit_kept (t : TxAgent) (b : Byte) : t.Kept (t.escEmit b) := by
  rw [TxAgent.escEmit_eq]
  exact ⟨rfl, rfl, id⟩

theorem TxAgent.fbTag_kept (t : TxAgent) (tag : Byte) : t.Kept (t.fbTag tag) :=
  have h := t.escEmit_kept tag
  ⟨h.lat, h.busy, h.inv⟩

/-- A mode value is written as the one byte of an inner payload (R67). -/
theorem modeByte_keeps (mode : Byte) : TxKeeps fun s => .next (s.modeByte mode) :=
  .of_agent (fun t => { t with fbCnt := 1 }.fbPay mode) (fun _ => rfl) <| by
    intro t
    have h := TxAgent.escEmit_kept { t with fbCnt := 1 } mode
    exact ⟨h.lat, h.busy, h.inv⟩

/-- Every instruction of `TX` keeps to `TX`. -/
theorem exec_tx_keeps (i : Instr) (hside : Instr.side i = .tx) : TxKeeps (exec i) :=
  match i, hside with
  | .esc, _ => execEsc_answers.keeps
  | .xsum, _ => execXsum_answers.keeps
  | .frameBuild, _ => execFrameBuild_answers.keeps
  | .subpktFmt, _ => execSubpktFmt_answers.keeps
  | .streamSend, _ => execStreamSend_answers.keeps
  | .bmpPack, _ => execBmpPack_answers.keeps
  | .textPayload, _ => execTextPayload_answers.keeps
  | .cmdText, _ => execCmdText_answers.keeps
  | .cmdMode, _ => execCmdMode_answers.keeps
  | .reservedOp .tx op, _ => (execReservedOp_tx_answers op).keeps
  | .pair01 .tx, _ => .of_agent (·.escEmit 0x01) (fun _ => rfl) (·.escEmit_kept _)
  | .pair02 .tx, _ => .of_agent (·.escEmit 0x02) (fun _ => rfl) (·.escEmit_kept _)
  | .pair03 .tx, _ => .of_agent (·.escEmit 0x03) (fun _ => rfl) (·.escEmit_kept _)
  | .plain .tx b, _ => .of_agent (·.escEmit b) (fun _ => rfl) (·.escEmit_kept b)
  | .sof .tx, _ => .of_agent (fun t => { t with out := [], fbPhase := .sof }.fbSof) (fun _ => rfl)
      fun _ => ⟨rfl, rfl, id⟩
  | .eof .tx, _ => .of_agent (·.fbEof) (fun _ => rfl) fun _ => ⟨rfl, rfl, id⟩
  | .frame .tx tag payload, _ =>
      .of_answered fun t => State.buildAndRespond_answered t tag payload
  | .tagText, _ => .of_agent (·.fbTag TAG_TEXT) (fun _ => rfl) (·.fbTag_kept _)
  | .tagMode, _ => .of_agent (·.fbTag TAG_MODE) (fun _ => rfl) (·.fbTag_kept _)
  | .mode1, _ => modeByte_keeps 1
  | .mode2, _ => modeByte_keeps 2
  | .mode3, _ => modeByte_keeps 3
  | .mode4, _ => modeByte_keeps 4
  | .mode5, _ => modeByte_keeps 5
  | .mode6, _ => modeByte_keeps 6
  | .mode7, _ => modeByte_keeps 7
  | .mode8, _ => modeByte_keeps 8
  | .subpkt total index chunk, _ =>
      .of_answered fun t => State.formatAndRespond_answered t total index chunk
  | .bitmapColumn word, _ => .of_agent (fun t => { t with bpColWord := word }.bpEmit) (fun _ => rfl)
      fun _ => ⟨rfl, rfl, id⟩
  | .text caption bitmap, _ =>
      .of_answered fun t => State.wrapAndRespond_answered t bitmap caption
  | .modePayload mode, _ =>
      .of_answered fun t => State.buildAndRespond_answered t TAG_MODE [mode]

/-! ### What an operation of `RX` does to its agent -/

/-- Every response `RX` has standing at its port is one it can give (R78, R201). -/
def RxAgent.Legal (r : RxAgent) : Prop := ∀ p, r.resp = some p → p.legalRx

/-- An operation of `RX` has ended: the response stands at the port. -/
structure RxAgent.Answered (r r' : RxAgent) (p : Response) : Prop where
  lat : r'.lat = r.lat
  busy : r'.busy = r.busy
  resp : r'.resp = some p
  legal : p.legalRx

/-- What any instruction does to the agent `RX`. -/
structure RxAgent.Kept (r r' : RxAgent) : Prop where
  lat : r'.lat = r.lat
  busy : r'.busy = r.busy
  inv : r.Legal → r'.Legal

theorem RxAgent.Answered.kept {r r' : RxAgent} {p : Response} (h : r.Answered r' p) :
    r.Kept r' where
  lat := h.lat
  busy := h.busy
  inv := by
    intro _ p' hp'
    rw [h.resp, Option.some.injEq] at hp'
    exact hp' ▸ h.legal

theorem RxAgent.Kept.trans {r u v : RxAgent} (h : r.Kept u) (h' : u.Kept v) : r.Kept v :=
  ⟨h'.lat.trans h.lat, h'.busy.trans h.busy, h'.inv ∘ h.inv⟩

/-- The response of a parse is `decodeResponse` of its outcome (R123, R217). -/
theorem State.answerParse_eq (s : State) (raw : Bytes)
    (u : RxAgent × Except ErrorKind (Byte × Bytes)) :
    s.answerParse raw u =
      { s with
        rx := { u.1 with
          out := [], resp := some (decodeResponse raw (u.2.map fun v => .parsed v.1 v.2)) } } := by
  obtain ⟨r, o⟩ := u
  cases o with
  | ok v => rfl
  | error k => rfl

theorem State.answerParse_answered {r : RxAgent} {u : RxAgent × Except ErrorKind (Byte × Bytes)}
    (hlat : u.1.lat = r.lat) (hbusy : u.1.busy = r.busy) (herr : ErrorsIn decodeKinds u.2)
    (raw : Bytes) :
    ∃ r', (∀ s : State, s.answerParse raw u = { s with rx := r' }) ∧
      r.Answered r' (decodeResponse raw (u.2.map fun v => .parsed v.1 v.2)) := by
  refine ⟨_, fun s => State.answerParse_eq s raw u, ?_⟩
  exact ⟨hlat, hbusy, rfl, legalRx_decodeResponse raw (herr.map _)⟩

/-- The message is parsed and its Ack answered by `ackResponse` of `decode_ack`'s outcome (R175). -/
theorem State.decodeAndRespond_eq (s : State) (message : Bytes) :
    s.decodeAndRespond message =
      { s with
        rx := { (s.rx.begin.fpRun message).1 with
          out := [], resp := some (ackResponse message (decodeAck message)) } } := by
  obtain ⟨p, body, d, h⟩ := RxAgent.fpRun_eq s.rx.begin message
  have hparse :
      (parseFrame message).bind (fun v => ackFields (v.1 :: v.2)) = decodeAck message := rfl
  simp only [State.decodeAndRespond, h, hparse]
  cases decodeAck message with
  | error k => rfl
  | ok f =>
    simp only [State.answerAck, ackResponse]
    split <;> rfl

/-- The end marker's checks write only `FP.declared` and end in a parser's error or a parse
(R124). -/
theorem RxAgent.fpEnd_eq (r : RxAgent) :
    ∃ d, r.fpEnd.1 = { r with fpDeclared := d } ∧ ErrorsIn decodeKinds r.fpEnd.2 := by
  unfold RxAgent.fpEnd
  split
  · split
    · exact ⟨r.fpDeclared, rfl, by simp [decodeKinds]⟩
    · exact ⟨_, rfl, parseBody_errors _⟩
  · exact ⟨r.fpDeclared, rfl, by simp [decodeKinds]⟩

/-! ### Requests of `RX` -/

/-- On every state this meaning answers by a next state in which only `RX` differs, and `RX` ends as
an operation with this response, a function of its latches. -/
def RxAnswers (e : State → Answer) (p : RxLatches → Response) : Prop :=
  ∀ r, ∃ r', (∀ s : State, s.rx = r → e s = .next { s with rx := r' }) ∧ r.Answered r' (p r.lat)

theorem execUnesc_answers :
    RxAnswers execUnesc fun l => decodeResponse l.a ((unescape l.a).map .buffer) := by
  intro r
  refine ⟨{ r with
    out := [], uePending := (ueRun false [] r.lat.a).pending
    resp := some (decodeResponse r.lat.a ((unescape r.lat.a).map .buffer)) }, ?_, rfl, rfl, rfl,
    legalRx_decodeResponse r.lat.a ((unescape_errors r.lat.a).map _)⟩
  rintro s rfl
  cases hu : unescape s.rx.lat.a with
  | ok z =>
    simp only [execUnesc, State.rxA, RxAgent.begin_out, ueRun_ok [] hu]
    rfl
  | error k =>
    obtain ⟨o, ho⟩ := ueRun_error [] hu
    simp only [execUnesc, State.rxA, RxAgent.begin_out, ho]
    rfl

/-- Parsing a message and answering with tag and inner payload (R123). -/
theorem parseAndRespond_answered (r : RxAgent) (message : Bytes) :
    ∃ r', (∀ s : State, s.rx = r →
        s.answerParse message (s.rx.begin.fpRun message) = { s with rx := r' }) ∧
      r.Answered r'
        (decodeResponse message ((parseFrame message).map fun v => .parsed v.1 v.2)) := by
  obtain ⟨p, body, d, h⟩ := RxAgent.fpRun_eq r.begin message
  obtain ⟨r', heq, hans⟩ := State.answerParse_answered (r := r) (u := r.begin.fpRun message)
    (by rw [h]; rfl) (by rw [h]; rfl) (by rw [h]; exact parseFrame_errors message) message
  rw [h] at hans
  exact ⟨r', fun s hs => hs ▸ heq s, hans⟩

/-- Parsing a message and answering with its Ack fields (R175). -/
theorem State.decodeAndRespond_answered (r : RxAgent) (message : Bytes) :
    ∃ r', (∀ s : State, s.rx = r → s.decodeAndRespond message = { s with rx := r' }) ∧
      r.Answered r' (ackResponse message (decodeAck message)) := by
  obtain ⟨p, body, d, h⟩ := RxAgent.fpRun_eq r.begin message
  refine ⟨_, fun s hs => hs ▸ State.decodeAndRespond_eq s message, ?_⟩
  rw [h]
  exact ⟨rfl, rfl, rfl, legalRx_ackResponse message (decodeAck_errors message)⟩

theorem RxAnswers.of_state {e : State → Answer} {p : RxLatches → Response}
    (g : RxLatches → State → State) (he : ∀ s : State, e s = .next (g s.rx.lat s))
    (hg : ∀ r, ∃ r', (∀ s : State, s.rx = r → g r.lat s = { s with rx := r' }) ∧
      r.Answered r' (p r.lat)) : RxAnswers e p := by
  intro r
  obtain ⟨r', heq, hans⟩ := hg r
  refine ⟨r', fun s hs => ?_, hans⟩
  rw [he, hs, heq s hs]

theorem execFrameParse_answers :
    RxAnswers execFrameParse fun l =>
      decodeResponse l.a ((parseFrame l.a).map fun v => .parsed v.1 v.2) :=
  .of_state (fun l s => s.answerParse l.a (s.rx.begin.fpRun l.a)) (fun _ => rfl)
    fun r => parseAndRespond_answered r r.lat.a

theorem execAckDecode_answers :
    RxAnswers execAckDecode fun l => ackResponse l.a (decodeAck l.a) :=
  .of_state (fun l s => s.decodeAndRespond l.a) (fun _ => rfl)
    fun r => State.decodeAndRespond_answered r r.lat.a

/-- A refused request at `RX`'s port (R79, R212). -/
theorem execReservedOp_rx_answers (op : BitVec 4) :
    RxAnswers (execReservedOp .rx op) fun _ => Response.error .illegalOp none none :=
  .of_state (fun _ s => s.refuse .rx) (fun _ => rfl) fun r =>
    ⟨{ r with resp := some (Response.error .illegalOp none none) }, fun s hs => by subst hs; rfl,
      rfl, rfl, rfl, legalRx_illegalOp⟩

/-- Every request of `RX` is answered, by a function of its latches. -/
theorem exec_rxRequest_answers (i : Instr) (hside : Instr.side i = .rx)
    (hreq : Instr.isRequest i = true) : ∃ p, RxAnswers (exec i) p :=
  match i, hside, hreq with
  | .unesc, _, _ => ⟨_, execUnesc_answers⟩
  | .frameParse, _, _ => ⟨_, execFrameParse_answers⟩
  | .ackDecode, _, _ => ⟨_, execAckDecode_answers⟩
  | .reservedOp .rx op, _, _ => ⟨_, execReservedOp_rx_answers op⟩

/-! ### Every instruction of `RX` -/

/-- On every state this meaning answers by a next state in which only `RX` differs; what `RX`
becomes depends on `RX` alone. -/
def RxKeeps (e : State → Answer) : Prop :=
  ∀ r, ∃ r', (∀ s : State, s.rx = r → e s = .next { s with rx := r' }) ∧ RxAgent.Kept r r'

theorem RxAnswers.keeps {e : State → Answer} {p : RxLatches → Response} (h : RxAnswers e p) :
    RxKeeps e := by
  intro r
  obtain ⟨r', heq, hans⟩ := h r
  exact ⟨r', heq, hans.kept⟩

theorem RxKeeps.of_agent {e : State → Answer} (f : RxAgent → RxAgent)
    (he : ∀ s : State, e s = .next { s with rx := f s.rx }) (hf : ∀ r : RxAgent, r.Kept (f r)) :
    RxKeeps e :=
  fun r => ⟨f r, fun s hs => hs ▸ he s, hf r⟩

/-- A code point that is answered as an operation on the message it carries. -/
theorem RxKeeps.of_answered {g : State → State} {p : Response}
    (hg : ∀ r, ∃ r', (∀ s : State, s.rx = r → g s = { s with rx := r' }) ∧ r.Answered r' p) :
    RxKeeps fun s => .next (g s) := by
  intro r
  obtain ⟨r', heq, hans⟩ := hg r
  exact ⟨r', fun s hs => congrArg _ (heq s hs), hans.kept⟩

/-- A byte received is kept in `FP.buf` and unescaped into `FP.body`, and nothing else changes. -/
theorem RxAgent.fpByte_kept {r r' : RxAgent} {b : Byte} (h : r.fpByte b = some r') : r.Kept r' := by
  obtain ⟨p, -, rfl⟩ := Option.map_eq_some_iff.mp h
  exact ⟨rfl, rfl, id⟩

/-- Bytes received one after the other keep to `RX`; the error they can raise is `InvalidEscape`. -/
theorem receive_keeps (wire : Bytes) : RxKeeps fun s => .next (s.receive wire) := by
  induction wire with
  | nil => exact fun r => ⟨r, fun s hs => hs ▸ rfl, rfl, rfl, id⟩
  | cons b rest ih =>
    intro r
    cases hb : r.fpByte b with
    | some u =>
      obtain ⟨r', heq, hkept⟩ := ih u
      refine ⟨r', ?_, (RxAgent.fpByte_kept hb).trans hkept⟩
      rintro s rfl
      simp only [State.receive, hb]
      exact heq { s with rx := u } rfl
    | none =>
      have hlegal := legalRx_decodeError (k := .invalidEscape) (by decide) (r.fpBuf ++ [b])
      refine ⟨{ r with
        out := [], resp := some (Response.error .invalidEscape (some (r.fpBuf ++ [b])) none) }, ?_,
        RxAgent.Answered.kept ⟨rfl, rfl, rfl, hlegal⟩⟩
      rintro s rfl
      simp only [State.receive, hb]
      rfl

/-- The end marker read is answered by the checks on what has been received (R124). -/
theorem execEof_rx_keeps : RxKeeps (execEof .rx) := by
  intro r
  obtain ⟨d, hagent, herr⟩ := RxAgent.fpEnd_eq { r with fpBuf := r.fpBuf ++ [EOF] }
  obtain ⟨r', heq, hans⟩ :=
    State.answerParse_answered (r := r) (by rw [hagent]) (by rw [hagent]) herr (r.fpBuf ++ [EOF])
  exact ⟨r', fun s hs => by subst hs; exact congrArg _ (heq s), hans.kept⟩

/-- Every instruction of `RX` keeps to `RX`. -/
theorem exec_rx_keeps (i : Instr) (hside : Instr.side i = .rx) : RxKeeps (exec i) :=
  match i, hside with
  | .unesc, _ => execUnesc_answers.keeps
  | .frameParse, _ => execFrameParse_answers.keeps
  | .ackDecode, _ => execAckDecode_answers.keeps
  | .reservedOp .rx op, _ => (execReservedOp_rx_answers op).keeps
  | .pair01 .rx, _ => receive_keeps _
  | .pair02 .rx, _ => receive_keeps _
  | .pair03 .rx, _ => receive_keeps _
  | .pairLenient second, _ => receive_keeps [ESC_BYTE, second]
  | .plain .rx b, _ => receive_keeps [b]
  | .sof .rx, _ => .of_agent
      (fun r => { r with fpBuf := [SOF], fpBody := [], uePending := false }) (fun _ => rfl)
      fun _ => ⟨rfl, rfl, id⟩
  | .eof .rx, _ => execEof_rx_keeps
  | .frame .rx tag payload, _ =>
      .of_answered fun r => parseAndRespond_answered r (frameBytes tag payload)
  | .ack ackType ackId seq status, _ =>
      .of_answered fun r =>
        State.decodeAndRespond_answered r (ackMessage ⟨ackType, ackId, seq, status⟩)
  | .statusOk, _ => receive_keeps [STATUS_OK]

/-! ## Isolation and history (R20, R21) -/

/-- Settles O51: an instruction keeps to its own agent, whose latches and busy bit it leaves. -/
theorem everyInstructionEndsOnItsSide : Obligations.EveryInstructionEndsOnItsSide := by
  intro i s
  cases hside : Instr.side i with
  | tx =>
    obtain ⟨t', heq, hkept⟩ := exec_tx_keeps i hside s.tx s.raster
    exact ⟨_, heq s rfl rfl, rfl, rfl, hkept.lat, rfl, hkept.busy, rfl, fun _ => rfl, nofun⟩
  | rx =>
    obtain ⟨r', heq, hkept⟩ := exec_rx_keeps i hside s.rx
    exact ⟨_, heq s rfl, rfl, rfl, rfl, hkept.lat, rfl, hkept.busy, nofun, fun _ => rfl⟩

/-- Settles O52: what an instruction makes of its agent does not depend on the other, so each finds
the same agent whether it runs first or second. -/
theorem agentsCommute : Obligations.AgentsCommute := by
  intro i j s t u hi hj ht hu
  obtain ⟨t', htx, -⟩ := exec_tx_keeps i hi s.tx s.raster
  obtain ⟨r', hrx, -⟩ := exec_rx_keeps j hj s.rx
  rw [htx s rfl rfl, Host.Outcome.next.injEq] at ht
  rw [hrx s rfl, Host.Outcome.next.injEq] at hu
  subst ht hu
  exact ⟨{ s with tx := t', rx := r' }, hrx _ rfl, htx _ rfl rfl⟩

/-- Settles O53: the response and the messages are functions of the latches and, for `TX`, the
raster. -/
theorem requestsForgetHistory : Obligations.RequestsForgetHistory := by
  intro i s s' t t' hreq htx hrx ht ht'
  cases hside : Instr.side i with
  | tx =>
    obtain ⟨hlat, hraster⟩ := htx hside
    obtain ⟨p, msgs, h⟩ := exec_txRequest_answers i hside hreq
    obtain ⟨u, hu, hans⟩ := h s.tx s.raster
    obtain ⟨u', hu', hans'⟩ := h s'.tx s'.raster
    rw [hu s rfl rfl, Host.Outcome.next.injEq] at ht
    rw [hu' s' rfl rfl, Host.Outcome.next.injEq] at ht'
    subst ht ht'
    rw [← hlat, ← hraster] at hans'
    refine ⟨hans.resp.trans hans'.resp.symm, ?_⟩
    rw [hans.sent, hans'.sent, List.drop_left, List.drop_left]
  | rx =>
    obtain ⟨p, h⟩ := exec_rxRequest_answers i hside hreq
    obtain ⟨u, hu, hans⟩ := h s.rx
    obtain ⟨u', hu', hans'⟩ := h s'.rx
    rw [hu s rfl, Host.Outcome.next.injEq] at ht
    rw [hu' s' rfl, Host.Outcome.next.injEq] at ht'
    subst ht ht'
    rw [← hrx hside] at hans'
    refine ⟨hans.resp.trans hans'.resp.symm, ?_⟩
    rw [List.drop_length, List.drop_length]

/-! ## The invariant (R31, R32, R78) -/

theorem exec_keeps_inv {i : Instr} {s t : State} (h : Inv s) (ht : exec i s = .next t) : Inv t := by
  obtain ⟨htx, hrx, hraster⟩ := h
  cases hside : Instr.side i with
  | tx =>
    obtain ⟨t', heq, hkept⟩ := exec_tx_keeps i hside s.tx s.raster
    rw [heq s rfl rfl, Host.Outcome.next.injEq] at ht
    subst ht
    exact ⟨hkept.inv htx, hrx, hraster⟩
  | rx =>
    obtain ⟨r', heq, hkept⟩ := exec_rx_keeps i hside s.rx
    rw [heq s rfl, Host.Outcome.next.injEq] at ht
    subst ht
    exact ⟨htx, hkept.inv hrx, hraster⟩

/-- Latching operands touches no register of the invariant. -/
theorem acceptTx_keeps_inv {s : State} (r : TxLatches) (h : Inv s) : Inv (s.acceptTx r) := by
  unfold State.acceptTx
  split
  · exact h
  · exact h

theorem acceptRx_keeps_inv {s : State} (r : RxLatches) (h : Inv s) : Inv (s.acceptRx r) := by
  unfold State.acceptRx
  split
  · exact h
  · exact h

theorem runWire_keeps_inv {s t : State} {f : Format} {side : Agent} {bytes : Bytes} (h : Inv s)
    (ht : s.runWire f side bytes = .next t) : Inv t := by
  unfold State.runWire at ht
  split at ht
  · cases ht
  · split at ht
    · exact exec_keeps_inv h ht
    · cases ht

/-- Taking a response leaves the others legal. -/
theorem take_keeps_inv {s : State} (port : Agent) (h : Inv s) : Inv (s.take port) := by
  obtain ⟨⟨hchan, hclen, hresp⟩, hrx, hraster⟩ := h
  cases port with
  | tx => exact ⟨⟨hchan, hclen, nofun⟩, hrx, hraster⟩
  | rx => exact ⟨⟨hchan, hclen, hresp⟩, nofun, hraster⟩

theorem starve_keeps_inv {s : State} (port : Agent) (h : Inv s) : Inv (s.starve port) := by
  cases port with
  | tx => exact h
  | rx => exact h

/-- `rst` keeps the raster, and puts every register at a value of its range (R36). -/
theorem rst_keeps_inv {s : State} (h : s.raster.wf = true) : Inv s.rst := by
  have hchan : TxAgent.reset.bpChan.toNat < CHANNELS := by decide
  have hclen : TxAgent.reset.spClen.toNat ≤ MAX_CHUNK := by decide
  exact ⟨⟨hchan, hclen, nofun⟩, nofun, h⟩

/-- Serving any event keeps the invariant. -/
theorem serve_keeps_inv {s t : State} (i : Input) (h : Inv s) (ht : serve s i = .next t) :
    Inv t := by
  have ⟨htx, hrx, hraster⟩ := h
  cases i with
  | txRequest r => exact exec_keeps_inv (acceptTx_keeps_inv r h) ht
  | rxRequest r => exact exec_keeps_inv (acceptRx_keeps_inv r h) ht
  | wire f side bytes => exact runWire_keeps_inv h ht
  | take port => cases ht; exact take_keeps_inv port h
  | raster pixels => cases ht; exact ⟨htx, hrx, rasterOf_wf pixels⟩
  | starve port => cases ht; exact starve_keeps_inv port h
  | unstable port => cases ht
  | reset => cases ht; exact rst_keeps_inv hraster
  | txCutShort r k =>
    simp only [serve] at ht
    split at ht
    · cases ht
      exact rst_keeps_inv hraster
    · cases ht
    · cases ht
  | rxCutShort r => cases ht; exact rst_keeps_inv hraster

/-- Settles O55, by the event the step serves. -/
theorem everyStepKeepsTheInvariant : Obligations.EveryStepKeepsTheInvariant := by
  intro s t h ht
  unfold step stepOnce at ht
  split at ht
  · cases ht
    exact h
  · rename_i i rest _
    exact serve_keeps_inv (s := { s with inputs := rest }) i h ht

/-- Settles O56: reset is `rst` of a machine with no raster. -/
theorem resetMeetsTheInvariant : Obligations.ResetMeetsTheInvariant :=
  rst_keeps_inv (s := State.reset) rfl

/-! ## The step and reset (R22, R36, R240) -/

/-- The first event is served when it can be. -/
theorem step_of_served {s : State} {i : Input} {rest : List Input} (h : s.inputs = i :: rest)
    (hi : i.served s = true) : step s = serve { s with inputs := rest } i := by
  simp only [step, stepOnce, h, pick, hi, if_true]

theorem TxAgent.ready_iff (t : TxAgent) : t.ready = true ↔ t.busy = false ∧ t.resp = none := by
  simp [TxAgent.ready]

theorem RxAgent.ready_iff (r : RxAgent) : r.ready = true ↔ r.busy = false ∧ r.resp = none := by
  simp [RxAgent.ready]

/-- Settles O5: a request its agent can accept is served first, and served by `runTx` or `runRx`. -/
theorem stepRunsTheDecodedRequest : Obligations.StepRunsTheDecodedRequest := by
  intro s rest
  constructor
  · intro r h hbusy hresp
    exact step_of_served h (s.tx.ready_iff.mpr ⟨hbusy, hresp⟩)
  · intro r h hbusy hresp
    exact step_of_served h (s.rx.ready_iff.mpr ⟨hbusy, hresp⟩)

/-- Settles O10: each value is the one `State.reset` writes out. -/
theorem resetLeavesTheValuesOfTheSpec : Obligations.ResetLeavesTheValuesOfTheSpec := by
  unfold Obligations.ResetLeavesTheValuesOfTheSpec
  decide

end Sys2Proof.Machine

namespace Sys2Proof.Machine

/-! ## Delivered frames (R41, R43, R121, R216)

The messages an operation delivers are read off from its `TxAnswers` lemma: frames of `FB`'s form
where its outcome is a result, none where it is an error. -/

/-! ### The markers of a frame (R121) -/

/-- `EE` sends a marker as a pair, so none of its bytes is a bare one (R100). -/
theorem marker_not_mem_escapeByte {c : Byte} (hc : c = SOF ∨ c = EOF) (b : Byte) :
    c ∉ escapeByte b := by
  unfold escapeByte inEscSet
  split
  · rename_i hb
    simp only [ESC_SET, List.mem_cons, List.not_mem_nil, or_false, decide_eq_true_eq] at hb
    rcases hc with rfl | rfl <;> rcases hb with rfl | rfl | rfl <;> decide
  · rename_i hb
    rw [List.mem_singleton]
    rintro rfl
    rcases hc with rfl | rfl <;> exact hb (by decide)

theorem marker_not_mem_escape {c : Byte} (hc : c = SOF ∨ c = EOF) (a : Bytes) : c ∉ escape a := by
  induction a with
  | nil => exact List.not_mem_nil
  | cons b r ih => simp [escape, marker_not_mem_escapeByte hc b, ih]

theorem frameBytes_proper (tag : Byte) (a : Bytes) : ProperFrame (frameBytes tag a) :=
  ⟨escape (frameBody tag a), rfl, marker_not_mem_escape (.inl rfl) _,
    marker_not_mem_escape (.inr rfl) _⟩

/-! ### What an outcome delivers -/

/-- An operation with this outcome delivers proper frames and nothing else. -/
def DeliversProper (o : Except ErrorKind (List Bytes)) : Prop := ∀ f ∈ delivered o, ProperFrame f

theorem deliversProper_error (k : ErrorKind) : DeliversProper (.error k) := nofun

theorem DeliversProper.bind {α : Type} (o : Except ErrorKind α)
    {g : α → Except ErrorKind (List Bytes)} (hg : ∀ a, DeliversProper (g a)) :
    DeliversProper (o.bind g) := by
  cases o with
  | ok a => exact hg a
  | error k => exact deliversProper_error k

theorem streamFrames_deliversProper (tag : Byte) (a : Bytes) :
    DeliversProper (streamFrames tag a) := by
  unfold streamFrames
  split
  · exact deliversProper_error _
  · intro f hf
    obtain ⟨i, -, rfl⟩ := List.mem_map.mp hf
    exact frameBytes_proper tag _

/-- `cmd_text` ends in `stream_frames` or in an error before it (R165). -/
theorem cmdText_deliversProper (width height : Half) (m : Memory) (caption : Bytes) :
    DeliversProper (cmdText width height m caption) :=
  .bind _ fun _ => .bind _ fun _ => streamFrames_deliversProper TAG_TEXT _

/-! ### Response and messages together -/

/-- The messages are proper frames, and there are none beside a response that reports an error. -/
structure ProperDelivery (p : Response) (msgs : List Bytes) : Prop where
  proper : ∀ f ∈ msgs, ProperFrame f
  nil_of_error : p.status ≠ 0 → msgs = []

theorem properDelivery_nil (p : Response) : ProperDelivery p [] := ⟨nofun, fun _ => rfl⟩

/-- Where the response to a list of frames reports an error, nothing has been delivered (R216). -/
theorem DeliversProper.properDelivery {o : Except ErrorKind (List Bytes)} (h : DeliversProper o) :
    ProperDelivery (encodeResponse (o.map .buffers)) (delivered o) := by
  refine ⟨h, fun hstatus => ?_⟩
  cases o with
  | ok frames => exact absurd rfl hstatus
  | error k => rfl

/-- Building a frame delivers it, or fails (R120). -/
theorem buildFrame_properDelivery (tag : Byte) (a : Bytes) :
    ProperDelivery (encodeResponse ((buildFrame tag a).map .buffer))
      (delivered ((buildFrame tag a).map ([·]))) := by
  unfold buildFrame
  split
  · exact properDelivery_nil _
  · refine ⟨fun f hf => ?_, fun hstatus => absurd rfl hstatus⟩
    rw [List.mem_singleton.mp hf]
    exact frameBytes_proper tag a

/-- Every request of `TX` is answered with a proper delivery. -/
theorem exec_txRequest_properDelivery (i : Instr) (hside : Instr.side i = .tx)
    (hreq : Instr.isRequest i = true) :
    ∃ p msgs, TxAnswers (exec i) p msgs ∧ ∀ l m, ProperDelivery (p l m) (msgs l m) :=
  match i, hside, hreq with
  | .esc, _, _ => ⟨_, _, execEsc_answers, fun _ _ => properDelivery_nil _⟩
  | .xsum, _, _ => ⟨_, _, execXsum_answers, fun _ _ => properDelivery_nil _⟩
  | .frameBuild, _, _ =>
      ⟨_, _, execFrameBuild_answers, fun l _ => buildFrame_properDelivery l.tag l.a⟩
  | .subpktFmt, _, _ => ⟨_, _, execSubpktFmt_answers, fun _ _ => properDelivery_nil _⟩
  | .streamSend, _, _ =>
      ⟨_, _, execStreamSend_answers,
        fun l _ => (streamFrames_deliversProper l.tag l.a).properDelivery⟩
  | .bmpPack, _, _ => ⟨_, _, execBmpPack_answers, fun _ _ => properDelivery_nil _⟩
  | .textPayload, _, _ => ⟨_, _, execTextPayload_answers, fun _ _ => properDelivery_nil _⟩
  | .cmdText, _, _ =>
      ⟨_, _, execCmdText_answers,
        fun l m => (cmdText_deliversProper l.width l.height m l.b).properDelivery⟩
  | .cmdMode, _, _ =>
      ⟨_, _, execCmdMode_answers,
        fun l _ => buildFrame_properDelivery TAG_MODE [l.mode]⟩
  | .reservedOp .tx op, _, _ =>
      ⟨_, _, execReservedOp_tx_answers op, fun _ _ => properDelivery_nil _⟩

/-- Settles O54: a request of `TX` adds the frames of its outcome, one of `RX` leaves `TX` alone. -/
theorem requestsDeliverOnlyProperFrames : Obligations.RequestsDeliverOnlyProperFrames := by
  intro i s t hreq ht
  cases hside : Instr.side i with
  | tx =>
    obtain ⟨p, msgs, h, hdelivery⟩ := exec_txRequest_properDelivery i hside hreq
    obtain ⟨t', heq, hans⟩ := h s.tx s.raster
    rw [heq s rfl rfl, Host.Outcome.next.injEq] at ht
    subst ht
    have ⟨hproper, hnil⟩ := hdelivery s.tx.lat s.raster
    refine ⟨_, hans.sent, hproper, fun r hr hstatus => hnil ?_⟩
    rwa [Option.some.inj (hans.resp.symm.trans hr)]
  | rx =>
    obtain ⟨r', heq, -⟩ := exec_rx_keeps i hside s.rx
    rw [heq s rfl, Host.Outcome.next.injEq] at ht
    subst ht
    exact ⟨[], (List.append_nil _).symm, nofun, fun _ _ _ => rfl⟩

end Sys2Proof.Machine

namespace Sys2Proof.Machine

/-! ## Encodings (30_encoding.md R61 to R79)

The decoder on the encoder's words: the operation codes first, then each format whose words have
fields that must be found again among their bytes. -/

/-! ### Operation codes (R76, R79) -/

/-- The decoder and the table of R76 agree on which codes a port accepts. -/
theorem decodeOp_eq_reservedOp_iff (port : Agent) (op : BitVec 4) :
    decodeOp port op = .reservedOp port op ↔ opOwner op ≠ some port := by
  cases port with
  | tx => revert op; decide
  | rx => revert op; decide

/-- The codes from 12 on are reserved (R76). -/
theorem opOwner_of_reserved : ∀ op : BitVec 4, 12 ≤ op.toNat → opOwner op = none := by decide

/-- Settles O4: the codes and ports of R76's table, one by one. -/
theorem operationCodesBelongToOnePort : Obligations.OperationCodesBelongToOnePort :=
  ⟨decodeOp_eq_reservedOp_iff, opOwner_of_reserved, rfl⟩

theorem opByte_toNat (op : BitVec 4) : (opByte op).toNat = op.toNat := by
  simp only [opByte, BitVec.truncate_eq_setWidth, BitVec.toNat_setWidth]
  omega

/-- An operation select is read back from the byte that holds it (R76). -/
theorem decodeRequest_opByte (port : Agent) (op : BitVec 4) :
    decodeRequest port [opByte op] = .ok (decodeOp port op) := by
  have hcode := op.isLt
  have hop : (opByte op).extractLsb' 0 4 = op := by
    apply BitVec.eq_of_toNat_eq
    simp only [BitVec.extractLsb'_toNat, opByte_toNat, Nat.shiftRight_zero]
    omega
  rw [decodeRequest, if_pos (by rwa [opByte_toNat]), hop]

/-! ### Pairs (R61, R73) -/

theorem decodePair_lenient {s : Byte} (h5 : s ≠ 5) (h6 : s ≠ 6) (h7 : s ≠ 7) :
    decodePair .rx [ESC_BYTE, s] = .ok (.pairLenient s) := by
  rw [decodePair, if_neg (not_not.mpr rfl), if_neg h5, if_neg h6, if_neg h7]

/-! ### Frames (R62) -/

/-- `UNESC` undoes `ESC` (R105). -/
theorem unescape_escape (a : Bytes) : unescape (escape a) = .ok a := by
  induction a with
  | nil => rfl
  | cons b r ih => rw [escape, unescape_escapeByte, ih]; rfl

/-- The parser reads back what the builder writes (R125). -/
theorem parseFrame_frameBytes (tag : Byte) {a : Bytes} (h : a.length ≤ INNER_MAX) :
    parseFrame (frameBytes tag a) = .ok (tag, a) := by
  rw [parseFrame, frameBytes, if_pos (markersOk_wrap _), interior_wrap, unescape_escape]
  exact parseBody_frameBody tag a h

theorem decodeFrame_frameBytes (side : Agent) (tag : Byte) {a : Bytes}
    (h : a.length ≤ INNER_MAX) :
    decodeFrame side (frameBytes tag a) = .ok (.frame side tag a) := by
  simp only [decodeFrame, parseFrame_frameBytes tag h, if_true]

/-! ### Sub-packets (R64) -/

/-- The chunk-length byte finds the chunk and the checksum after it. -/
theorem decodeSubpacket_subpacketBytes (total index : Half) {chunk : Bytes}
    (h : chunk.length ≤ MAX_CHUNK) :
    decodeSubpacket (subpacketBytes total index chunk) = .ok (.subpkt total index chunk) := by
  have hn : (BitVec.ofNat 8 chunk.length).toNat = chunk.length := by
    simp only [MAX_CHUNK] at h
    simp only [BitVec.toNat_ofNat]
    omega
  simp [subpacketBytes, subpacketHead, u16be, decodeSubpacket, hn, be16_u16be, h]

/-! ### Text payloads (R66) -/

/-- The caption-length byte finds the caption in its field; the rest of the field is padding. -/
theorem decodeCaption_field {caption bitmap : Bytes} (hcap : caption.length ≤ CAPTION_MAX)
    (hbm : bitmap.length ≤ FIELD_MAX) :
    decodeCaption (BitVec.ofNat 8 caption.length)
        (caption ++ List.replicate (CAPTION_MAX - caption.length) 0)
        (u16be (half bitmap.length) ++ bitmap) =
      .ok (.text caption bitmap) := by
  have hk : (BitVec.ofNat 8 caption.length).toNat = caption.length := by
    simp only [CAPTION_MAX] at hcap
    simp only [BitVec.toNat_ofNat]
    omega
  have hlen : (half bitmap.length).toNat = bitmap.length := half_toNat hbm
  simp [u16be, decodeCaption, hk, be16_u16be, hlen, hcap]

theorem decodeText_textPayloadBytes {caption bitmap : Bytes} (hcap : caption.length ≤ CAPTION_MAX)
    (hbm : bitmap.length ≤ FIELD_MAX) :
    decodeText (textPayloadBytes bitmap caption) = .ok (.text caption bitmap) := by
  have hlong : ¬ (textPayloadBytes bitmap caption).length < TEXT_HDR := by
    rw [textPayloadBytes_length _ _ hcap, TEXT_HDR]
    omega
  have hparts : textPayloadBytes bitmap caption =
      List.replicate TEXT_RESERVED 0 ++ BitVec.ofNat 8 caption.length ::
        ((caption ++ List.replicate (CAPTION_MAX - caption.length) 0) ++
          (u16be (half bitmap.length) ++ bitmap)) := by
    simp [textPayloadBytes]
  have hfield : (caption ++ List.replicate (CAPTION_MAX - caption.length) (0 : Byte)).length =
      CAPTION_MAX := by
    rw [List.length_append, List.length_replicate]
    omega
  rw [decodeText, if_neg hlong, hparts, List.take_left' List.length_replicate,
    List.drop_left' List.length_replicate, if_neg (not_not.mpr rfl)]
  dsimp only
  rw [List.take_left' hfield, List.drop_left' hfield, decodeCaption_field hcap hbm]

/-! ### Every format -/

/-- Settles O1, by the rows of the opcode table. The rows without fields are words of the tables;
the others go by the lemma of their format. -/
theorem decodeReadsWhatEncodeWrites : Obligations.DecodeReadsWhatEncodeWrites := by
  intro i hwf
  cases i with
  | esc | unesc | xsum | frameBuild | frameParse | ackDecode | subpktFmt | streamSend | bmpPack
  | textPayload | cmdText | cmdMode => rfl
  | reservedOp port op =>
    have howner : opOwner op ≠ some port := of_decide_eq_true hwf
    exact (decodeRequest_opByte port op).trans
      (congrArg _ ((decodeOp_eq_reservedOp_iff port op).mpr howner))
  | pair01 | pair02 | pair03 | sof | eof | tagText | tagMode => rfl
  | mode1 | mode2 | mode3 | mode4 | mode5 | mode6 | mode7 | mode8 => rfl
  | pairLenient s =>
    obtain ⟨h5, h6, h7⟩ : s ≠ 5 ∧ s ≠ 6 ∧ s ≠ 7 := of_decide_eq_true hwf
    exact decodePair_lenient h5 h6 h7
  | plain side b =>
    cases side with
    | tx => exact if_neg (by simpa [Instr.wf] using hwf)
    | rx => exact if_neg (of_decide_eq_true hwf)
  | frame side tag payload => exact decodeFrame_frameBytes side tag (of_decide_eq_true hwf)
  | subpkt total index chunk =>
    exact decodeSubpacket_subpacketBytes total index (of_decide_eq_true hwf)
  | bitmapColumn word =>
    exact congrArg (fun v => Except.ok (Instr.bitmapColumn v)) (be16_u16be word)
  | text caption bitmap =>
    obtain ⟨hcap, hbm⟩ : caption.length ≤ CAPTION_MAX ∧ bitmap.length ≤ FIELD_MAX := by
      simpa [Instr.wf] using hwf
    exact decodeText_textPayloadBytes hcap hbm
  | modePayload mode => rfl
  | ack t i seq st => exact congrArg (fun v => Except.ok (Instr.ack t i v st)) (be16_u16be seq)
  | statusOk => rfl

/-- Settles O3: the decoder runs on each of the twelve words. -/
theorem wordsOfTheSpecDecode : Obligations.WordsOfTheSpecDecode := by
  unfold Obligations.WordsOfTheSpecDecode
  decide

/-! ## Ports (R78, R79, R212, R240) -/

/-- Settles O9: a response can be taken at any time, and `take` only clears its port. -/
theorem takingAResponseFreesTheAgent : Obligations.TakingAResponseFreesTheAgent := by
  intro s rest
  constructor
  · intro h
    exact step_of_served h rfl
  · intro h
    exact step_of_served h rfl

/-- A request with a code of another port or of none latches nothing and is refused (R79, R212). -/
theorem State.runTx_of_misplaced (s : State) {r : TxLatches} (h : opOwner r.op ≠ some .tx) :
    s.runTx r = .next (s.refuse .tx) := by
  rw [State.runTx, (decodeOp_eq_reservedOp_iff .tx r.op).mpr h, State.acceptTx, if_neg h]
  rfl

theorem State.runRx_of_misplaced (s : State) {r : RxLatches} (h : opOwner r.op ≠ some .rx) :
    s.runRx r = .next (s.refuse .rx) := by
  rw [State.runRx, (decodeOp_eq_reservedOp_iff .rx r.op).mpr h, State.acceptRx, if_neg h]
  rfl

/-- Settles O28: such a request runs `refuse`, which writes the response port alone. -/
theorem refusedRequestOnlyAnswersIllegalOp : Obligations.RefusedRequestOnlyAnswersIllegalOp :=
  fun s => ⟨fun _ h => s.runTx_of_misplaced h, fun _ h => s.runRx_of_misplaced h,
    fun _ => rfl, fun _ => rfl⟩

/-! ## `CMD.TEXT` and its three parts (R83, R165) -/

/-- Running a `TX` request: only the agent changes, and it has answered. -/
theorem TxAnswers.run {e : State → Answer} {p : TxLatches → Memory → Response}
    {msgs : TxLatches → Memory → List Bytes} (h : TxAnswers e p msgs) {s t : State}
    (ht : e s = .next t) :
    t.raster = s.raster ∧
      s.tx.Answered t.tx (p s.tx.lat s.raster) (msgs s.tx.lat s.raster) := by
  obtain ⟨t', heq, hans⟩ := h s.tx s.raster
  rw [heq s rfl rfl, Host.Outcome.next.injEq] at ht
  subst ht
  exact ⟨rfl, hans⟩

/-- A response that carries a buffer tells the outcome. -/
theorem eq_ok_of_encodeResponse_buffer {o : Except ErrorKind Bytes} {z : Bytes}
    (h : some (encodeResponse (o.map .buffer)) = some (Response.ok (.buffer z))) : o = .ok z := by
  cases o with
  | ok b => simpa [Except.map, encodeResponse, Response.ok] using h
  | error k => simp [Except.map, encodeResponse, Response.ok, Response.error] at h

/-- Settles O48: the two buffers between the parts are the results of `pack_bitmap` and
`text_payload`, from which `cmd_text` goes on to the same `stream_frames`. -/
theorem cmdTextIsItsThreeParts : Obligations.CmdTextIsItsThreeParts := by
  intro s whole packed wrapped streamed bitmap payload hwhole hpack hbitmap hwrap hpayload hstream
  obtain ⟨-, hw⟩ := execCmdText_answers.run hwhole
  obtain ⟨hraster, hp⟩ := execBmpPack_answers.run hpack
  obtain ⟨-, ht⟩ := execTextPayload_answers.run hwrap
  obtain ⟨-, hs⟩ := execStreamSend_answers.run hstream
  have hbm := eq_ok_of_encodeResponse_buffer (hp.resp.symm.trans hbitmap)
  have htp : textPayload bitmap packed.tx.lat.b = .ok payload :=
    eq_ok_of_encodeResponse_buffer (ht.resp.symm.trans hpayload)
  rw [hp.lat] at htp
  have hcmd : cmdText s.tx.lat.width s.tx.lat.height s.raster s.tx.lat.b =
      streamFrames TAG_TEXT payload := by
    simp only [cmdText, hbm, htp, Except.bind]
  constructor
  · rw [hs.resp, hw.resp, hcmd]
  · rw [hs.sent, ht.sent, hp.sent, hw.sent, hcmd, List.append_nil, List.append_nil]

/-! ## The bitmap bit by bit (R65, R150, R151) -/

/-- Of lists of one length `k` strung together, entry `j` of list `i` stands at `k * i + j`. -/
theorem getElem?_flatMap_range {α : Type} {f : Nat → List α} {k n i j : Nat}
    (hf : ∀ i, (f i).length = k) (hi : i < n) (hj : j < k) :
    ((List.range n).flatMap f)[k * i + j]? = (f i)[j]? := by
  induction n with
  | zero => omega
  | succ n ih =>
    have hlen : ((List.range n).flatMap f).length = k * n := by
      simp [List.length_flatMap, hf, Nat.mul_comm]
    rw [List.range_succ, List.flatMap_append, List.flatMap_singleton]
    rcases Nat.lt_succ_iff_lt_or_eq.mp hi with hlt | rfl
    · have hin : k * i + j < k * n := calc
        k * i + j < k * i + k := Nat.add_lt_add_left hj _
        _ = k * (i + 1) := (Nat.mul_succ k i).symm
        _ ≤ k * n := Nat.mul_le_mul_left k hlt
      rw [List.getElem?_append_left (hlen ▸ hin), ih hlt]
    · rw [List.getElem?_append_right (by omega), hlen, Nat.add_sub_cancel_left]

/-- Where the bytes of a column word stand (R65). -/
theorem bitmapBytes_getElem? (m : Memory) {w c x j : Nat} (hc : c < 3) (hx : x < w) (hj : j < 2) :
    (bitmapBytes m w)[2 * (c * w + x) + j]? = (u16be (columnWord m x c))[j]? := by
  have hchannel (c : Nat) :
      ((List.range w).flatMap fun x => u16be (columnWord m x c)).length = 2 * w := by
    simp [List.length_flatMap, Nat.mul_comm]
  have hindex : 2 * (c * w + x) + j = 2 * w * c + (2 * x + j) := by ring
  rw [bitmapBytes, hindex, CHANNELS, getElem?_flatMap_range hchannel hc (by omega),
    getElem?_flatMap_range (fun _ => u16be_length _) hx hj]

/-- Adding a power of two whose bit is not set sets that bit and no other. -/
theorem getLsbD_add_one_shiftLeft {v : Half} {i : Nat} (h : v.getLsbD i = false) (hi : i < 16)
    (j : Nat) : (v + (1 : Half) <<< i).getLsbD j = (v.getLsbD j || decide (i = j)) := by
  have hpow : (1 : Half) <<< i = BitVec.twoPow 16 i := rfl
  have hdisjoint : v &&& BitVec.twoPow 16 i = 0#16 := by simp [BitVec.and_twoPow, h]
  rw [hpow, BitVec.add_eq_or_of_and_eq_zero _ _ hdisjoint, BitVec.getLsbD_or,
    BitVec.getLsbD_twoPow, decide_eq_true hi, Bool.true_and]

/-- The bits of the first `k` rows added up, as `columnWord` adds all of them. -/
def rowSum (lit : Nat → Bool) (k : Nat) : Half :=
  (List.range k).foldl (fun v y => if lit y then v + ((1 : Half) <<< (15 - y)) else v) 0

theorem columnWord_eq_rowSum (m : Memory) (x c : Nat) :
    columnWord m x c = rowSum (fun y => isLit (Raster m x y c)) 16 := rfl

theorem rowSum_succ (lit : Nat → Bool) (k : Nat) :
    rowSum lit (k + 1) =
      if lit k then rowSum lit k + ((1 : Half) <<< (15 - k)) else rowSum lit k := by
  simp only [rowSum, List.range_succ, List.foldl_append, List.foldl_cons, List.foldl_nil]

/-- After `k` rows, bit `15 - y` is row `y`'s for the rows before `k`, and no bit of a later row is
set. -/
theorem rowSum_getLsbD (lit : Nat → Bool) {k y : Nat} (hk : k ≤ 16) (hy : y < 16) :
    (rowSum lit k).getLsbD (15 - y) = (decide (y < k) && lit y) := by
  induction k generalizing y with
  | zero => simp [rowSum]
  | succ k ih =>
    have hle : k ≤ 16 := by omega
    have hfree : (rowSum lit k).getLsbD (15 - k) = false := by
      rw [ih hle hk, decide_eq_false (lt_irrefl k), Bool.false_and]
    have hsum := getLsbD_add_one_shiftLeft hfree (by omega) (15 - y)
    rw [rowSum_succ]
    rcases eq_or_ne y k with rfl | hne
    · cases lit y with
      | true => simpa using hsum
      | false => simpa using hfree
    · have hplace : 15 - k ≠ 15 - y := by omega
      have hbefore : y < k + 1 ↔ y < k := by omega
      rw [decide_eq_decide.mpr hbefore, ← ih hle hy]
      split
      · rw [hsum, decide_eq_false hplace, Bool.or_false]
      · rfl

/-- Row `y` is bit `15 - y` of the column word (R74, R151). -/
theorem columnWord_getLsbD (m : Memory) (x c : Nat) {y : Nat} (hy : y < 16) :
    (columnWord m x c).getLsbD (15 - y) = isLit (Raster m x y c) := by
  rw [columnWord_eq_rowSum, rowSum_getLsbD _ le_rfl hy, decide_eq_true hy, Bool.true_and]

/-- The most significant byte stands first: bit `15 - y` of a word is bit `7 - y mod 8` of its byte
`y / 8` (R44). -/
theorem u16be_getLsbD (v : Half) {y : Nat} (hy : y < 16) :
    ∃ b : Byte, (u16be v)[y / 8]? = some b ∧ b.getLsbD (7 - y % 8) = v.getLsbD (15 - y) := by
  by_cases hhi : y < 8
  · have hbyte : y / 8 = 0 := by omega
    have hbit : 8 + (7 - y % 8) = 15 - y := by omega
    refine ⟨v.extractLsb' 8 8, by rw [hbyte]; rfl, ?_⟩
    rw [BitVec.getLsbD_extractLsb', hbit, decide_eq_true (by omega), Bool.true_and]
  · have hbyte : y / 8 = 1 := by omega
    have hbit : 0 + (7 - y % 8) = 15 - y := by omega
    refine ⟨v.extractLsb' 0 8, by rw [hbyte]; rfl, ?_⟩
    rw [BitVec.getLsbD_extractLsb', hbit, decide_eq_true (by omega), Bool.true_and]

/-- Settles O49: the byte is a column word's, and its bit the pixel's threshold bit. -/
theorem bitmapBitIsThePixel : Obligations.BitmapBitIsThePixel := by
  intro m w
  refine ⟨bitmapBytes_length m w, fun c x y hc hx hy => ?_⟩
  obtain ⟨b, hb, hbit⟩ := u16be_getLsbD (columnWord m x c) hy
  refine ⟨b, (bitmapBytes_getElem? m hc hx (by omega)).trans hb, ?_⟩
  rw [hbit, columnWord_getLsbD m x c hy]
  rfl

end Sys2Proof.Machine

namespace Sys2Proof.Machine

/-! ## The escape codec (40_escape.md R100 to R105)

The next states of `ESC` and `UNESC` are those of their units' runs. What R101 says of `escape` is
said first of the wire form of one byte. -/

/-! ### The two operations -/

/-- The whole next state of `ESC` (R100, R102). -/
theorem execEsc_eq (s : State) :
    execEsc s = .next
      { s with
        tx := { s.tx with
          out := [], closed := []
          resp := some (Response.ok (.buffer (escape s.tx.lat.a))) } } := by
  rw [execEsc, foldl_escEmit, State.respondBuffer_eq]
  rfl

/-- Settles O13: `EE` over `A` leaves `escape(A)` in the one buffer that is closed. -/
theorem escAnswersTheEscapedBytes : Obligations.EscAnswersTheEscapedBytes :=
  ⟨rfl, execEsc_eq⟩

/-- The whole next state of `UNESC` (R103, R104): `UE.esc_pending` is what the run of `UE` left. -/
theorem execUnesc_eq (s : State) :
    execUnesc s = .next
      { s with
        rx := { s.rx with
          out := [], uePending := (ueRun false [] s.rx.lat.a).pending
          resp := some (decodeResponse s.rx.lat.a ((unescape s.rx.lat.a).map .buffer)) } } := by
  cases hu : unescape s.rx.lat.a with
  | ok z =>
    simp only [execUnesc, State.rxA, RxAgent.begin_out, ueRun_ok [] hu]
    rfl
  | error k =>
    obtain ⟨o, ho⟩ := ueRun_error [] hu
    simp only [execUnesc, State.rxA, RxAgent.begin_out, ho]
    rfl

/-- Settles O14: a run of `UE` over an input that unescapes ends at a pair boundary. -/
theorem unescAnswersTheUnescapedBytes : Obligations.UnescAnswersTheUnescapedBytes :=
  ⟨rfl, fun s => ⟨_, fun _ hz => congrArg UeEnd.pending (ueRun_ok [] hz), execUnesc_eq s⟩⟩

/-! ### The round trip (R105) -/

/-- Running an `RX` request: only the agent changes, and it has answered. -/
theorem RxAnswers.run {e : State → Answer} {p : RxLatches → Response} (h : RxAnswers e p)
    {s t : State} (ht : e s = .next t) : s.rx.Answered t.rx (p s.rx.lat) := by
  obtain ⟨r', heq, hans⟩ := h s.rx
  rw [heq s rfl, Host.Outcome.next.injEq] at ht
  subst ht
  exact hans

theorem escape_injective : Function.Injective escape := fun x y h =>
  Except.ok.inj ((unescape_escape x).symm.trans ((congrArg unescape h).trans (unescape_escape y)))

/-- Settles O41: `ESC` answers `escape(A)`, which `unescape` takes back to `A`. -/
theorem unescUndoesEsc : Obligations.UnescUndoesEsc := by
  refine ⟨fun s t u z ht hz hu => ?_, unescape_escape, fun y z hy => ⟨fun h => ⟨y, h.symm⟩, ?_⟩,
    rfl, rfl⟩
  · obtain ⟨-, hesc⟩ := execEsc_answers.run ht
    obtain rfl : escape s.tx.lat.a = z :=
      Except.ok.inj (eq_ok_of_encodeResponse_buffer (hesc.resp.symm.trans hz))
    have hunesc := (execUnesc_answers.run hu).resp
    rwa [unescape_escape] at hunesc
  · rintro ⟨x, rfl⟩
    rw [Except.ok.inj (hy.symm.trans (unescape_escape x))]

/-! ### The wire form of one byte (R100) -/

theorem escapeByte_of_mem {b : Byte} (h : b ∈ ESC_SET) :
    escapeByte b = [ESC_BYTE, b + ESC_OFFSET] := if_pos (decide_eq_true h)

theorem escapeByte_of_not_mem {b : Byte} (h : b ∉ ESC_SET) : escapeByte b = [b] :=
  if_neg (by simpa [inEscSet] using h)

/-- The second bytes that `ESC` writes (R100): `b + 4` never overflows a byte. -/
theorem add_offset_of_mem :
    ∀ b ∈ ESC_SET, b + ESC_OFFSET = 5 ∨ b + ESC_OFFSET = 6 ∨ b + ESC_OFFSET = 7 := by decide

/-- An introducer in the wire form of one byte is the first byte of its pair (R101 (a)). -/
theorem introducer_opens_pair_escapeByte {b : Byte} {before after : Bytes}
    (h : escapeByte b = before ++ ESC_BYTE :: after) :
    ∃ second, after = [second] ∧ (second = 5 ∨ second = 6 ∨ second = 7) := by
  by_cases hb : b ∈ ESC_SET
  · have hsecond := add_offset_of_mem b hb
    rw [escapeByte_of_mem hb] at h
    cases before with
    | nil => exact ⟨_, (List.cons.inj h).2.symm, hsecond⟩
    | cons c before =>
      have hmem : ESC_BYTE ∈ [b + ESC_OFFSET] := by simp [(List.cons.inj h).2]
      rw [← List.mem_singleton.mp hmem] at hsecond
      exact absurd hsecond (by decide)
  · rw [escapeByte_of_not_mem hb] at h
    have hmem : ESC_BYTE ∈ [b] := by simp [h]
    exact absurd (List.mem_singleton.mp hmem ▸ by decide) hb

/-! ### Escaped sequences (R101) -/

/-- An introducer in an escaped sequence lies in the wire form of the first byte or in what
follows, never across the two (R101 (a)). -/
theorem introducer_opens_pair_escape {x before after : Bytes}
    (h : escape x = before ++ ESC_BYTE :: after) :
    ∃ second tail, after = second :: tail ∧ (second = 5 ∨ second = 6 ∨ second = 7) := by
  induction x generalizing before with
  | nil => simp [escape] at h
  | cons b r ih =>
    rw [escape, List.append_eq_append_iff] at h
    obtain ⟨between, -, hr⟩ | ⟨overlap, hb, hr⟩ := h
    · exact ih hr
    · cases overlap with
      | nil => exact ih (before := []) hr.symm
      | cons c overlap =>
        obtain ⟨rfl, rfl⟩ := List.cons.inj hr
        obtain ⟨second, rfl, hsecond⟩ := introducer_opens_pair_escapeByte hb
        exact ⟨second, escape r, rfl, hsecond⟩

/-- Each byte of `ESC_SET` costs one byte more (R101 (b)). -/
theorem escape_length (x : Bytes) :
    (escape x).length = x.length + (x.filter (· ∈ ESC_SET)).length := by
  induction x with
  | nil => rfl
  | cons b r ih =>
    by_cases hb : b ∈ ESC_SET
    · rw [escape, escapeByte_of_mem hb, List.filter_cons_of_pos (p := (· ∈ ESC_SET)) (by simpa)]
      simp only [List.length_append, List.length_cons, List.length_nil, ih]
      omega
    · rw [escape, escapeByte_of_not_mem hb, List.filter_cons_of_neg (p := (· ∈ ESC_SET)) (by simpa)]
      simp only [List.length_append, List.length_cons, List.length_nil, ih]
      omega

/-- No escaped sequence ends in an incomplete pair (R101 (e)). -/
theorem escape_getLast?_ne_introducer (x : Bytes) : (escape x).getLast? ≠ some ESC_BYTE := by
  intro h
  obtain ⟨before, hx⟩ := List.getLast?_eq_some_iff.mp h
  obtain ⟨second, tail, hnil, -⟩ := introducer_opens_pair_escape hx
  exact List.cons_ne_nil second tail hnil.symm

/-- Settles O42: the wire forms of the bytes, one after the other, hold no bare marker and only
whole pairs; injectivity is `UNESC`'s round trip. -/
theorem escapedBytesHoldNoMarker : Obligations.EscapedBytesHoldNoMarker := by
  refine ⟨fun x => ⟨marker_not_mem_escape (.inl rfl) x, marker_not_mem_escape (.inr rfl) x,
    fun _ _ => introducer_opens_pair_escape⟩, fun x => ⟨escape_length x, ?_⟩, escape_append,
    fun _ _ h => escape_injective h, escape_getLast?_ne_introducer⟩
  have hlen := escape_length x
  have hle := List.length_filter_le (· ∈ ESC_SET) x
  omega

end Sys2Proof.Machine

namespace Sys2Proof.Machine

/-! ## The checksum (41_checksum.md R110 to R112)

The next state of `XSUM` is that of the run of `XS`. What R111 says of `checksum` comes from two laws
of the exclusive-or fold: over a concatenation, and over a permutation. -/

/-! ### The operation -/

/-- The whole next state of `XSUM` (R110, R112). -/
theorem execXsum_eq (s : State) :
    execXsum s = .next
      { s with
        tx := { s.tx with
          out := [], closed := [], xsAcc := checksum s.tx.lat.a
          resp := some (Response.ok (.byte (checksum s.tx.lat.a))) } } := by
  rw [execXsum, foldl_xsAbsorb, State.respond_eq]
  rfl

/-- Settles O15: `XS` absorbs `A` from the seed, and what it holds is answered. -/
theorem xsumAnswersTheChecksum : Obligations.XsumAnswersTheChecksum :=
  ⟨rfl, execXsum_eq⟩

/-! ### The identities (R111) -/

@[simp] theorem checksum_nil : checksum [] = 0 := rfl

@[simp] theorem checksum_singleton (a : Byte) : checksum [a] = a := BitVec.zero_xor

theorem xor_seed (b : Byte) : b ^^^ XSUM_SEED = b := BitVec.xor_zero

/-- The accumulator after `a` only shifts what `b` contributes. -/
theorem checksum_append (a b : Bytes) : checksum (a ++ b) = checksum a ^^^ checksum b := calc
  checksum (a ++ b) = b.foldl (· ^^^ ·) (checksum a) := List.foldl_append
  _ = b.foldl (· ^^^ ·) (checksum a ^^^ XSUM_SEED) := by rw [xor_seed]
  _ = checksum a ^^^ checksum b := List.foldl_assoc

theorem checksum_perm {a b : Bytes} (h : a.Perm b) : checksum a = checksum b :=
  h.foldl_eq XSUM_SEED

/-- A sequence's checksum cancels what the sequence sums to. -/
theorem checksum_append_checksum (x : Bytes) : checksum (x ++ [checksum x]) = 0 := by
  rw [checksum_append, checksum_singleton]
  exact BitVec.xor_self

/-- Settles O43: exclusive-or is associative, commutative and its own inverse. -/
theorem checksumIgnoresOrder : Obligations.ChecksumIgnoresOrder :=
  ⟨checksum_nil, checksum_singleton, checksum_append, fun _ _ => checksum_perm,
    checksum_append_checksum⟩

/-! ### Whole sub-packets (R111, R135) -/

/-- A sub-packet ends in the checksum of its head. -/
theorem checksum_subpacketBytes (total index : Half) (chunk : Bytes) :
    checksum (subpacketBytes total index chunk) = 0 :=
  checksum_append_checksum (subpacketHead total index chunk)

theorem eq_subpacketBytes_of_subpacket {total index : Half} {chunk z : Bytes}
    (h : subpacket total index chunk = .ok z) : z = subpacketBytes total index chunk := by
  unfold subpacket at h
  split at h
  · cases h
  · exact (Except.ok.inj h).symm

/-- Settles O44: `SUBPKT.FMT` answers a sub-packet's bytes, and these sum to 0. -/
theorem wholeSubpacketSumsToZero : Obligations.WholeSubpacketSumsToZero := by
  intro s t u z ht hz hu
  obtain ⟨-, hfmt⟩ := execSubpktFmt_answers.run ht
  have hsub := eq_ok_of_encodeResponse_buffer (hfmt.resp.symm.trans hz)
  have hsum : checksum z = 0 := by
    rw [eq_subpacketBytes_of_subpacket hsub, checksum_subpacketBytes]
  obtain ⟨-, hxsum⟩ := execXsum_answers.run hu
  rw [hxsum.resp, hsum]
  rfl

end Sys2Proof.Machine

namespace Sys2Proof.Machine

/-! ## Frames (42_frame.md R120 to R125)

The next states of `FRAME.BUILD` and `FRAME.PARSE` are those of the runs of `FB` and `FP`. A parse
that succeeds has read a body of the builder's form; what the markers and the escape codec do to it
gives R121 and the round trip. -/

/-! ### `FRAME.BUILD` (R120, R122) -/

/-- `build_frame` gives a frame exactly where the declared length fits its field (R120). -/
theorem buildFrame_eq_ok_iff {tag : Byte} {a z : Bytes} :
    buildFrame tag a = .ok z ↔ a.length ≤ INNER_MAX ∧ frameBytes tag a = z := by
  unfold buildFrame
  split
  · rename_i h
    simp [Nat.not_le_of_lt h]
  · rename_i h
    simp [Nat.le_of_not_lt h]

/-- The whole next state of `FRAME.BUILD` where the declared length fits (R120, R122). -/
theorem execFrameBuild_of_le {s : State} (h : s.tx.lat.a.length ≤ INNER_MAX) :
    execFrameBuild s = .next
      { s with
        tx := { s.tx with
          out := [], closed := [], fbPhase := .done, fbCnt := 0
          sent := s.tx.sent ++ [frameBytes s.tx.lat.tag s.tx.lat.a]
          resp := some (Response.ok (.buffer (frameBytes s.tx.lat.tag s.tx.lat.a))) } } := by
  rw [execFrameBuild, State.buildAndRespond, State.txA, if_neg (Nat.not_lt_of_le h),
    TxAgent.fbRun_eq _ _ _ h, State.respondBuffer_eq]
  rfl

/-- The whole next state of `FRAME.BUILD` where it does not fit (R120, R211). -/
theorem execFrameBuild_of_lt {s : State} (h : INNER_MAX < s.tx.lat.a.length) :
    execFrameBuild s = .next
      { s with
        tx := { s.tx with
          out := [], closed := [], resp := some (Response.error .fieldOverflow none none) } } := by
  rw [execFrameBuild, State.buildAndRespond, State.txA, if_pos h, State.raiseTx_eq]

/-- Settles O16: `FB` runs after the length check, and the frame it delivers is the response. -/
theorem frameBuildDeliversTheFrame : Obligations.FrameBuildDeliversTheFrame :=
  ⟨rfl, fun _ => execFrameBuild_of_le, fun _ => execFrameBuild_of_lt⟩

/-! ### `FRAME.PARSE` (R123, R124) -/

/-- The next state of `FRAME.PARSE`, but for the registers `FP`'s run leaves (R123, R217). -/
theorem execFrameParse_eq (s : State) :
    execFrameParse s = .next
      { s with
        rx := { (s.rx.begin.fpRun s.rx.lat.a).1 with
          out := []
          resp := some (decodeResponse s.rx.lat.a
            ((parseFrame s.rx.lat.a).map fun r => .parsed r.1 r.2)) } } := by
  obtain ⟨_, _, _, hrun⟩ := RxAgent.fpRun_eq s.rx.begin s.rx.lat.a
  rw [execFrameParse, State.rxA, State.answerParse_eq, hrun]

/-- Settles O17: `FP` decides as `parse_frame` does and writes only its own registers. -/
theorem frameParseAnswersTagAndPayload : Obligations.FrameParseAnswersTagAndPayload := by
  refine ⟨rfl, fun s => ?_⟩
  obtain ⟨p, body, declared, hrun⟩ := RxAgent.fpRun_eq s.rx.begin s.rx.lat.a
  exact ⟨p, body, declared, (execFrameParse_eq s).trans (by rw [hrun]; rfl)⟩

/-- A body that parses has the builder's form (R63, R123). -/
theorem eq_frameBody_of_parseBody {body payload : Bytes} {tag : Byte}
    (h : parseBody body = .ok (tag, payload)) : body = frameBody tag payload := by
  unfold parseBody at h
  split at h
  · rename_i b0 b1 content
    split at h
    · cases h
    · rename_i hlen
      cases content with
      | nil => cases h
      | cons c rest =>
        cases h
        have hdeclared : half (payload.length + 1) = be16 b0 b1 := by
          rw [← List.length_cons (a := tag), not_not.mp hlen, half_of_toNat]
        rw [frameBody, hdeclared, u16be_be16]
        rfl
  · cases h

/-- A message that parses has both markers and, between them, an escaped body (R123). -/
theorem markersOk_and_unescape_of_parseFrame {a payload : Bytes} {tag : Byte}
    (h : parseFrame a = .ok (tag, payload)) :
    markersOk a = true ∧ unescape (interior a) = .ok (frameBody tag payload) := by
  unfold parseFrame at h
  split at h
  · rename_i hmarkers
    cases hu : unescape (interior a) with
    | ok body =>
      rw [hu] at h
      exact ⟨hmarkers, congrArg _ (eq_frameBody_of_parseBody h)⟩
    | error k =>
      rw [hu] at h
      cases h
  · cases h

/-- Phase 3 loads the declared length of a body of the builder's form (R124). -/
theorem RxAgent.fpFields_of_frameBody {r : RxAgent} {tag : Byte} {payload : Bytes}
    (h : r.fpBody = frameBody tag payload) :
    r.fpFields = ({ r with fpDeclared := half (payload.length + 1) }, parseBody r.fpBody) := by
  rw [RxAgent.fpFields, h, ← be16_u16be (half (payload.length + 1))]
  rfl

/-- `FP`'s run over a message that parses (R123, R124). -/
theorem RxAgent.fpRun_of_parseFrame (r : RxAgent) {a payload : Bytes} {tag : Byte}
    (h : parseFrame a = .ok (tag, payload)) :
    (r.fpRun a).1 =
      { r with
        fpBuf := a, uePending := false, fpBody := frameBody tag payload
        fpDeclared := half (payload.length + 1) } := by
  obtain ⟨hmarkers, hbody⟩ := markersOk_and_unescape_of_parseFrame h
  simp only [RxAgent.fpRun, RxAgent.fpReceive, hmarkers, if_true, RxAgent.fpUnescape,
    ueRun_ok [] hbody, List.nil_append]
  rw [RxAgent.fpFields_of_frameBody rfl]

/-- Settles O18: the body `UE` has written is the one `parse_frame` reads its result from. -/
theorem frameParseLeavesTheBody : Obligations.FrameParseLeavesTheBody := fun s tag payload h =>
  (execFrameParse_eq s).trans (by rw [RxAgent.fpRun_of_parseFrame _ h, h]; rfl)

/-! ### The round trip (R125) -/

theorem parseFrame_of_buildFrame {tag : Byte} {a z : Bytes} (h : buildFrame tag a = .ok z) :
    parseFrame z = .ok (tag, a) := by
  obtain ⟨hlen, rfl⟩ := buildFrame_eq_ok_iff.mp h
  exact parseFrame_frameBytes tag hlen

/-- Settles O45: `FRAME.BUILD` answers `build_frame`'s frame, from which `parse_frame` reads tag and
inner payload back; a message that parses and was built was built from just these. -/
theorem frameParseUndoesFrameBuild : Obligations.FrameParseUndoesFrameBuild := by
  refine ⟨fun s t u z ht hz hu => ?_, fun tag a hlen => ?_,
    fun z tag a hparse => ⟨fun h => ⟨tag, a, h⟩, ?_⟩, rfl, rfl⟩
  · obtain ⟨-, hbuilt⟩ := execFrameBuild_answers.run ht
    have hframe := eq_ok_of_encodeResponse_buffer (hbuilt.resp.symm.trans hz)
    have hparsed := (execFrameParse_answers.run hu).resp
    rwa [parseFrame_of_buildFrame hframe] at hparsed
  · rw [buildFrame_eq_ok_iff.mpr ⟨hlen, rfl⟩]
    exact parseFrame_frameBytes tag hlen
  · rintro ⟨tag', a', h⟩
    cases hparse.symm.trans (parseFrame_of_buildFrame h)
    exact h

/-! ### Size and markers (R121) -/

/-- Two markers, a body of `3 + len(A)` bytes, and one byte more for each that is escaped. -/
theorem frameBytes_length (tag : Byte) (a : Bytes) :
    (frameBytes tag a).length =
      2 + (3 + a.length) + ((frameBody tag a).filter (· ∈ ESC_SET)).length := by
  simp only [frameBytes, List.length_append, List.length_singleton, escape_length,
    frameBody_length]
  omega

/-- A message whose middle holds no marker has each marker once. -/
theorem count_markers_wrap {mid : Bytes} (hsof : SOF ∉ mid) (heof : EOF ∉ mid) :
    ([SOF] ++ mid ++ [EOF]).count SOF = 1 ∧ ([SOF] ++ mid ++ [EOF]).count EOF = 1 := by
  simp only [List.count_append, List.count_eq_zero.mpr hsof, List.count_eq_zero.mpr heof]
  decide

/-- The second byte of a wrapped message is the first between the markers. -/
theorem wrap_getElem?_one {mid : Bytes} (h : mid ≠ []) :
    ([SOF] ++ mid ++ [EOF])[1]? = mid.head? := by
  cases mid with
  | nil => exact absurd rfl h
  | cons c rest => rfl

/-- The last byte but one of a wrapped message is the last between the markers. -/
theorem wrap_getElem?_length_sub_two {mid : Bytes} (h : mid ≠ []) :
    ([SOF] ++ mid ++ [EOF])[([SOF] ++ mid ++ [EOF]).length - 2]? = mid.getLast? := by
  have hpos := List.length_pos_of_ne_nil h
  have hindex : ([SOF] ++ mid ++ [EOF]).length - 2 = mid.length - 1 + 1 := by
    simp only [List.length_append, List.length_singleton]
    omega
  rw [hindex, List.getLast?_eq_getElem?, List.append_assoc, List.singleton_append,
    List.getElem?_cons_succ, List.getElem?_append_left (by omega)]

theorem escape_frameBody_ne_nil (tag : Byte) (a : Bytes) : escape (frameBody tag a) ≠ [] := by
  intro h
  have hlen := escape_length (frameBody tag a)
  rw [h, frameBody_length, List.length_nil] at hlen
  omega

/-- Settles O46: between the markers stands an escaped body, which holds no marker and does not end
in an introducer. -/
theorem builtFrameSizeAndMarkers : Obligations.BuiltFrameSizeAndMarkers := by
  intro tag a frame h
  obtain ⟨-, rfl⟩ := buildFrame_eq_ok_iff.mp h
  have hsof := marker_not_mem_escape (.inl rfl) (frameBody tag a)
  have heof := marker_not_mem_escape (.inr rfl) (frameBody tag a)
  have hne := escape_frameBody_ne_nil tag a
  obtain ⟨hcountSof, hcountEof⟩ := count_markers_wrap hsof heof
  refine ⟨frameBytes_length tag a, hcountSof, rfl, hcountEof, List.getLast?_concat, ?_, ?_⟩
  · rw [frameBytes, wrap_getElem?_one hne]
    exact fun hhead => heof (List.mem_of_mem_head? hhead)
  · rw [frameBytes, wrap_getElem?_length_sub_two hne]
    exact escape_getLast?_ne_introducer (frameBody tag a)

end Sys2Proof.Machine

namespace Sys2Proof.Machine

/-! ## Sub-packets and streams (43_subpacket.md R135 to R140)

The next states of `SUBPKT.FMT` and `STREAM.SEND` are those of the runs of `SP`. The chunks of a
stream are the successive pieces of its payload, which gives R138. -/

/-! ### `SUBPKT.FMT` (R135, R136) -/

/-- The whole next state of `SUBPKT.FMT` on a chunk within `MAX_CHUNK` (R135, R136). -/
theorem execSubpktFmt_of_le {s : State} (h : s.tx.lat.a.length ≤ MAX_CHUNK) :
    execSubpktFmt s = .next
      { s with
        tx := { s.tx with
          out := [], closed := [], spTotalLen := s.tx.lat.totalLen, spSeqIdx := s.tx.lat.index
          spClen := BitVec.ofNat 8 s.tx.lat.a.length
          xsAcc := checksum (subpacketHead s.tx.lat.totalLen s.tx.lat.index s.tx.lat.a)
          resp := some (Response.ok (.buffer
            (subpacketBytes s.tx.lat.totalLen s.tx.lat.index s.tx.lat.a))) } } := by
  rw [execSubpktFmt, State.formatAndRespond, State.txA, if_neg (Nat.not_lt_of_le h),
    TxAgent.spForm_eq, State.respondBuffer_eq]
  rfl

/-- The whole next state of `SUBPKT.FMT` on a longer chunk (R135, R211). -/
theorem execSubpktFmt_of_lt {s : State} (h : MAX_CHUNK < s.tx.lat.a.length) :
    execSubpktFmt s = .next
      { s with
        tx := { s.tx with
          out := [], closed := [], resp := some (Response.error .fieldOverflow none none) } } := by
  rw [execSubpktFmt, State.formatAndRespond, State.txA, if_pos h, State.raiseTx_eq]

/-- Settles O20: `SP` forms the sub-packet after the length check, and it is the one buffer
closed. -/
theorem subpktFmtAnswersTheSubpacket : Obligations.SubpktFmtAnswersTheSubpacket :=
  ⟨rfl, fun _ => execSubpktFmt_of_le, fun _ => execSubpktFmt_of_lt⟩

/-! ### `STREAM.SEND` (R137, R139) -/

/-- The whole next state of `STREAM.SEND` where the total length fits, but for the four registers
that forming and framing a sub-packet writes: these are the last sub-packet's, or untouched where
there is none (R137, R139). -/
theorem execStreamSend_of_le {s : State} (h : s.tx.lat.a.length ≤ FIELD_MAX) :
    let a := s.tx.lat.a
    let n := chunkCount a.length
    let frames := (List.range n).map (streamFrame s.tx.lat.tag a)
    ∃ (acc clen : Byte) (phase : FbPhase) (cnt : Half),
      (a ≠ [] → phase = .done ∧ cnt = 0 ∧ clen = BitVec.ofNat 8 (chunkAt a (n - 1)).length ∧
        acc = streamAcc a (n - 1)) ∧
      (a = [] → phase = s.tx.fbPhase ∧ cnt = s.tx.fbCnt ∧ clen = s.tx.spClen ∧
        acc = s.tx.xsAcc) ∧
      execStreamSend s = .next
        { s with
          tx := { s.tx with
            out := [], closed := [], spTotalLen := half a.length
            spOff := half a.length, spSeqIdx := half n, spClen := clen, xsAcc := acc
            fbPhase := phase, fbCnt := cnt, sent := s.tx.sent ++ frames
            resp := some (Response.ok (.buffers frames)) } } := by
  obtain ⟨_, acc, clen, phase, cnt, hrun, hlast, hnone⟩ :=
    s.tx.begin.spRun_eq s.tx.lat.tag s.tx.lat.a h
  refine ⟨acc, clen, phase, cnt, fun ha => ?_, fun ha => ?_, ?_⟩
  · obtain ⟨-, hregisters⟩ := hlast ha
    exact hregisters
  · obtain ⟨-, hacc, hclen, hphase, hcnt⟩ := hnone ha
    exact ⟨hphase, hcnt, hclen, hacc⟩
  · rw [execStreamSend, State.streamAndRespond, State.txA, if_neg (Nat.not_lt_of_le h), hrun,
      State.respondBuffers_eq]
    rfl

/-- The whole next state of `STREAM.SEND` where it does not fit (R137, R211). -/
theorem execStreamSend_of_lt {s : State} (h : FIELD_MAX < s.tx.lat.a.length) :
    execStreamSend s = .next
      { s with
        tx := { s.tx with
          out := [], closed := [], resp := some (Response.error .fieldOverflow none none) } } := by
  rw [execStreamSend, State.streamAndRespond, State.txA, if_pos h, State.raiseTx_eq]

/-- Settles O21: `SP`'s loop runs after the length check, and the frames it delivers are the
response. -/
theorem streamSendDeliversTheFrames : Obligations.StreamSendDeliversTheFrames :=
  ⟨rfl, fun _ => execStreamSend_of_le, fun _ => execStreamSend_of_lt⟩

/-! ### The empty stream (R140) -/

/-- `stream_frames` gives frames exactly where the total length fits its field (R137). -/
theorem streamFrames_eq_ok_iff {tag : Byte} {a : Bytes} {frames : List Bytes} :
    streamFrames tag a = .ok frames ↔
      a.length ≤ FIELD_MAX ∧
        (List.range (chunkCount a.length)).map (streamFrame tag a) = frames := by
  unfold streamFrames
  split
  · rename_i h
    simp [Nat.not_le_of_lt h]
  · rename_i h
    simp [Nat.le_of_not_lt h]

theorem streamFrames_nil (tag : Byte) : streamFrames tag [] = .ok [] := rfl

/-- Sub-packet `i` is one of a stream of `len` bytes where its chunk begins within them (R137). -/
theorem lt_chunkCount_iff {i len : Nat} : i < chunkCount len ↔ MAX_CHUNK * i < len := by
  simp only [chunkCount, MAX_CHUNK]
  omega

theorem streamFrames_ne_nil {tag : Byte} {a : Bytes} {frames : List Bytes} (ha : a ≠ [])
    (h : streamFrames tag a = .ok frames) : frames ≠ [] := by
  obtain ⟨-, rfl⟩ := streamFrames_eq_ok_iff.mp h
  have hpos : 0 < chunkCount a.length := lt_chunkCount_iff.mpr (List.length_pos_of_ne_nil ha)
  simpa using hpos.ne'

theorem textPayloadBytes_ne_nil (bitmap caption : Bytes) : textPayloadBytes bitmap caption ≠ [] :=
  List.cons_ne_nil _ _

/-- Where `cmd_text` succeeds, its frames are those of a Text payload (R165). -/
theorem streamFrames_of_cmdText {width height : Half} {m : Memory} {caption : Bytes}
    {frames : List Bytes} (h : cmdText width height m caption = .ok frames) :
    ∃ bitmap, streamFrames TAG_TEXT (textPayloadBytes bitmap caption) = .ok frames := by
  by_cases hheight : height.toNat = ROWS
  · rw [cmdText_of_height width m caption hheight] at h
    cases herr : textError (bitmapBytes m width.toNat) caption with
    | some k => rw [herr] at h; cases h
    | none => rw [herr] at h; exact ⟨_, h⟩
  · rw [cmdText, packBitmap, if_pos hheight] at h
    cases h

/-- Settles O22: a stream has no sub-packet where its payload is empty, which a Text payload with
its reserved bytes never is. -/
theorem emptyStreamSendsNothing : Obligations.EmptyStreamSendsNothing := by
  refine ⟨fun s ha => ?_, fun width height m caption frames h => ?_⟩
  · obtain ⟨t', hexec, hans⟩ := execStreamSend_answers s.tx s.raster
    refine ⟨_, hexec s rfl rfl, ?_, ?_⟩
    · simp only [hans.resp, ha, streamFrames_nil]
      rfl
    · simp only [hans.sent, ha, streamFrames_nil]
      exact List.append_nil _
  · obtain ⟨bitmap, hframes⟩ := streamFrames_of_cmdText h
    exact streamFrames_ne_nil (textPayloadBytes_ne_nil bitmap caption) hframes

/-! ### The chunks of a stream (R138) -/

/-- Every chunk but the last is full. -/
theorem chunkAt_length_of_not_last {a : Bytes} {i : Nat} (h : i + 1 < chunkCount a.length) :
    (chunkAt a i).length = MAX_CHUNK := by
  rw [lt_chunkCount_iff, Nat.mul_succ] at h
  rw [chunkAt_length]
  omega

/-- No chunk is empty, not even the last. -/
theorem chunkAt_length_pos {a : Bytes} {i : Nat} (h : i < chunkCount a.length) :
    0 < (chunkAt a i).length := by
  rw [lt_chunkCount_iff] at h
  rw [chunkAt_length]
  exact lt_min (by decide) (Nat.sub_pos_of_lt h)

/-- The first `n` chunks in order are the first `128 * n` bytes of the payload. -/
theorem flatten_chunks (a : Bytes) (n : Nat) :
    ((List.range n).map (chunkAt a)).flatten = a.take (MAX_CHUNK * n) := by
  induction n with
  | zero => rfl
  | succ n ih =>
    simp only [List.range_succ, List.map_append, List.flatten_append, ih, List.map_singleton,
      List.flatten_singleton, chunkAt, Nat.mul_succ, List.take_add]

/-- All the chunks of a stream in order are its payload. -/
theorem flatten_all_chunks (a : Bytes) :
    ((List.range (chunkCount a.length)).map (chunkAt a)).flatten = a := by
  rw [flatten_chunks]
  exact List.take_of_length_le (Nat.le_of_not_lt fun h => Nat.lt_irrefl _ (lt_chunkCount_iff.mpr h))

/-- A sub-packet with its chunk fits into a frame, from which the parser reads it back (R125). -/
theorem parseFrame_streamFrame (tag : Byte) (a : Bytes) (i : Nat) :
    parseFrame (streamFrame tag a i) =
      .ok (tag, subpacketBytes (half a.length) (half i) (chunkAt a i)) := by
  have hchunk : (chunkAt a i).length ≤ 128 := chunkAt_length_le a i
  refine parseFrame_frameBytes tag ?_
  rw [subpacketBytes_length, INNER_MAX]
  omega

/-- A response that carries a result tells the outcome. -/
theorem eq_ok_of_encodeResponse {α : Type} {c : α → Result} (hc : Function.Injective c)
    {o : Except ErrorKind α} {z : α}
    (h : some (encodeResponse (o.map c)) = some (Response.ok (c z))) : o = .ok z := by
  cases o with
  | ok x => simpa [Except.map, encodeResponse, Response.ok, hc.eq_iff] using h
  | error k => simp [Except.map, encodeResponse, Response.ok, Response.error] at h

/-- Settles O47: the chunks are the successive pieces of the payload, and frame `i` is built from
chunk `i`. -/
theorem streamFramesCarryThePayload : Obligations.StreamFramesCarryThePayload := by
  intro s t frames ht hframes
  obtain ⟨-, hsend⟩ := execStreamSend_answers.run ht
  have hok := eq_ok_of_encodeResponse (fun _ _ => Result.buffers.inj)
    (hsend.resp.symm.trans hframes)
  obtain ⟨-, rfl⟩ := streamFrames_eq_ok_iff.mp hok
  generalize s.tx.lat.a = a
  refine ⟨(List.range (chunkCount a.length)).map (chunkAt a), ?_, ?_, flatten_all_chunks a,
    fun i f c hf hc => ?_⟩
  · rw [List.length_map, List.length_range]
    rfl
  · rw [List.length_map, List.length_map]
  · simp only [List.getElem?_eq_some_iff, List.length_map, List.length_range, List.getElem_map,
      List.getElem_range, exists_prop] at hf hc
    obtain ⟨hi, rfl⟩ := hf
    obtain ⟨-, rfl⟩ := hc
    refine ⟨parseFrame_streamFrame _ a i, fun hnext => ?_, chunkAt_length_pos hi,
      chunkAt_length_le a i⟩
    rw [List.length_map, List.length_range] at hnext
    exact chunkAt_length_of_not_last hnext

end Sys2Proof.Machine

namespace Sys2Proof.Machine

/-! ## The bitmap packer and the Text payload (44_bitmap.md R150 to R156)

The next states of `BMP.PACK` and `TEXT.PAYLOAD` are those of the runs of `BP` and `TP`, after the
checks each operation makes first. -/

/-! ### `BMP.PACK` (R150, R153) -/

/-- The height register holds `ROWS` exactly where it reads 16 (R150). -/
theorem toNat_eq_rows_iff (height : Half) : height.toNat = ROWS ↔ height = 16 :=
  BitVec.toNat_inj (y := 16)

/-- The whole next state of `BMP.PACK` on a raster of 16 rows, but for the row and column counters
of `BP` (R150, R153). -/
theorem execBmpPack_of_height {s : State} (h : s.tx.lat.height = 16) :
    ∃ (x : Half) (row : BitVec 4), execBmpPack s = .next
      { s with
        tx := { s.tx with
          out := [], closed := [], bpChan := 2, bpX := x, bpRow := row
          bpColWord := lastColumnWord s.raster s.tx.lat.width.toNat
          resp := some (Response.ok (.buffer (bitmapBytes s.raster s.tx.lat.width.toNat))) } } := by
  have hrows : s.tx.lat.height.toNat = ROWS := (toNat_eq_rows_iff _).mpr h
  obtain ⟨x, row, hrun⟩ := s.tx.begin.bpRun_eq s.raster _ s.tx.lat.width.isLt.le
  refine ⟨x, row, ?_⟩
  rw [execBmpPack, if_neg (not_not.mpr hrows), hrun, State.respondBuffer_eq]
  rfl

/-- The whole next state of `BMP.PACK` at any other height (R150, R211). -/
theorem execBmpPack_of_height_ne {s : State} (h : s.tx.lat.height ≠ 16) :
    execBmpPack s = .next
      { s with
        tx := { s.tx with
          out := [], closed := []
          resp := some (Response.error .unsupportedHeight none none) } } := by
  have hrows : s.tx.lat.height.toNat ≠ ROWS := fun he => h ((toNat_eq_rows_iff _).mp he)
  rw [execBmpPack, if_pos hrows, State.raiseTx_eq]

/-- Settles O23: `BP` runs after the height check, and what it packs is the one buffer closed. -/
theorem bmpPackAnswersTheBitmap : Obligations.BmpPackAnswersTheBitmap :=
  ⟨rfl, fun _ h => ⟨2, execBmpPack_of_height h⟩, fun _ => execBmpPack_of_height_ne⟩

/-! ### `TEXT.PAYLOAD` (R154, R156) -/

/-- The whole next state of wrapping where both lengths fit their fields (R154, R156). -/
theorem State.wrapAndRespond_of_le (s : State) {bitmap caption : Bytes}
    (hcap : caption.length ≤ CAPTION_MAX) (hbm : bitmap.length ≤ FIELD_MAX) :
    s.wrapAndRespond bitmap caption =
      { s with
        tx := { s.tx with
          out := [], closed := [], tpPhase := .done, tpCnt := 0
          resp := some (Response.ok (.buffer (textPayloadBytes bitmap caption))) } } := by
  have hnone : textError bitmap caption = none := by
    rw [textError, if_neg (Nat.not_lt_of_le hcap), if_neg (Nat.not_lt_of_le hbm)]
  simp only [State.wrapAndRespond, hnone]
  rw [TxAgent.tpRun_eq, State.respondBuffer_eq]
  rfl

/-- The whole next state of wrapping where one does not: the caption is checked first (R154,
R211). -/
theorem State.wrapAndRespond_of_lt (s : State) {bitmap caption : Bytes}
    (h : CAPTION_MAX < caption.length ∨ FIELD_MAX < bitmap.length) :
    s.wrapAndRespond bitmap caption =
      { s with
        tx := { s.tx with
          out := [], closed := []
          resp := some (Response.error
            (if CAPTION_MAX < caption.length then .captionTooLong else .fieldOverflow)
            none none) } } := by
  have hsome : textError bitmap caption =
      some (if CAPTION_MAX < caption.length then .captionTooLong else .fieldOverflow) := by
    unfold textError
    split
    · rfl
    · rename_i hcap
      rw [if_pos (h.resolve_left hcap)]
  simp only [State.wrapAndRespond, hsome]
  rw [State.raiseTx_eq]

/-- Settles O24: `TP` runs after the two checks and ends at count 0, and what it has emitted is the
one buffer closed. -/
theorem textPayloadAnswersThePayload : Obligations.TextPayloadAnswersThePayload :=
  ⟨rfl, fun s hcap hbm => ⟨0, congrArg _ (s.wrapAndRespond_of_le hcap hbm)⟩,
    fun s h => congrArg _ (s.wrapAndRespond_of_lt h)⟩

end Sys2Proof.Machine

namespace Sys2Proof.Machine

/-! ## The command composers (45_commands.md R165 to R167)

What `cmd_text` answers is decided by its checks in their order. The next state of a `CMD.TEXT` that
succeeds is the runs of `BP`, `TP` and `SP` one after the other; `CMD.MODE` is one run of `FB`. -/

/-! ### The checks of `cmd_text` (R165, R215) -/

theorem textError_of_le {bitmap caption : Bytes} (hcap : caption.length ≤ CAPTION_MAX)
    (hbm : bitmap.length ≤ FIELD_MAX) : textError bitmap caption = none := by
  rw [textError, if_neg (Nat.not_lt_of_le hcap), if_neg (Nat.not_lt_of_le hbm)]

/-- The size of the Text payload `CMD.TEXT` streams (R155, R165). -/
theorem textPayloadBytes_bitmapBytes_length (m : Memory) (w : Nat) {caption : Bytes}
    (hcap : caption.length ≤ CAPTION_MAX) :
    (textPayloadBytes (bitmapBytes m w) caption).length = 107 + 6 * w := by
  rw [textPayloadBytes_length _ _ hcap, bitmapBytes_length]

section Checks

variable {width height : Half} {m : Memory} {caption : Bytes}

theorem cmdText_of_height_ne (h : height.toNat ≠ ROWS) :
    cmdText width height m caption = .error .unsupportedHeight := by
  rw [cmdText, packBitmap, if_pos h]
  rfl

theorem cmdText_of_lt_caption (hheight : height.toNat = ROWS)
    (hcap : CAPTION_MAX < caption.length) :
    cmdText width height m caption = .error .captionTooLong := by
  rw [cmdText_of_height width m caption hheight, textError, if_pos hcap]
  rfl

/-- Past `WIDTH_MAX` either the bitmap or the Text payload around it overflows its length field
(R9). -/
theorem cmdText_of_lt_width (hheight : height.toNat = ROWS) (hcap : caption.length ≤ CAPTION_MAX)
    (hwidth : WIDTH_MAX < width.toNat) :
    cmdText width height m caption = .error .fieldOverflow := by
  rw [cmdText_of_height width m caption hheight]
  by_cases hbm : (bitmapBytes m width.toNat).length ≤ FIELD_MAX
  · have hpayload :
        FIELD_MAX < (textPayloadBytes (bitmapBytes m width.toNat) caption).length := by
      rw [textPayloadBytes_bitmapBytes_length m _ hcap]
      simp only [FIELD_MAX, WIDTH_MAX] at hwidth ⊢
      omega
    rw [textError_of_le hcap hbm, Option.elim_none, streamFrames, if_pos hpayload]
  · rw [textError, if_neg (Nat.not_lt_of_le hcap), if_pos (Nat.lt_of_not_le hbm)]
    rfl

/-- `cmd_text` succeeds exactly where every check passes, with the frames of the Text payload
(R165). -/
theorem cmdText_eq_ok_iff {frames : List Bytes} :
    cmdText width height m caption = .ok frames ↔
      height.toNat = ROWS ∧ textError (bitmapBytes m width.toNat) caption = none ∧
        streamFrames TAG_TEXT (textPayloadBytes (bitmapBytes m width.toNat) caption) =
          .ok frames := by
  by_cases h : height.toNat = ROWS
  · rw [cmdText_of_height width m caption h]
    cases textError (bitmapBytes m width.toNat) caption with
    | some k => simp
    | none => simp [h]
  · simp [cmdText_of_height_ne h, h]

/-- Up to `WIDTH_MAX` the Text payload fits its length field, and so does the bitmap in it (R9). -/
theorem cmdText_of_le (hheight : height.toNat = ROWS) (hcap : caption.length ≤ CAPTION_MAX)
    (hwidth : width.toNat ≤ WIDTH_MAX) :
    let payload := textPayloadBytes (bitmapBytes m width.toNat) caption
    cmdText width height m caption =
      .ok ((List.range (chunkCount payload.length)).map (streamFrame TAG_TEXT payload)) := by
  have hpayload := textPayloadBytes_bitmapBytes_length m width.toNat hcap
  have hbm := bitmapBytes_length m width.toNat
  simp only [WIDTH_MAX] at hwidth
  refine cmdText_eq_ok_iff.mpr ⟨hheight, textError_of_le hcap ?_,
    streamFrames_eq_ok_iff.mpr ⟨?_, rfl⟩⟩
  · rw [hbm, FIELD_MAX]
    omega
  · rw [hpayload, FIELD_MAX]
    omega

end Checks

/-- Settles O26: each check fails with its own error, and past them all the Text payload of
`107 + 6 * width` bytes is streamed. -/
theorem cmdTextChecksInOrder : Obligations.CmdTextChecksInOrder := by
  intro width height m caption
  simp only [← toNat_eq_rows_iff, ne_eq]
  refine ⟨cmdText_of_height_ne, cmdText_of_lt_caption, cmdText_of_lt_width,
    fun hheight hcap hwidth => ⟨_, cmdText_of_le hheight hcap hwidth, ?_⟩⟩
  rw [List.length_map, List.length_range, textPayloadBytes_bitmapBytes_length m _ hcap]
  rfl

/-! ### `CMD.TEXT` (R83, R165) -/

/-- The whole next state of sending a stream of at least one sub-packet from the agent state `t`:
the registers are the last sub-packet's (R137, R139). -/
theorem State.streamAndRespond_of_ok (s : State) (t : TxAgent) {tag : Byte} {a : Bytes}
    {frames : List Bytes} (ha : a ≠ []) (h : streamFrames tag a = .ok frames) :
    s.streamAndRespond t tag a =
      { s with
        tx := { t with
          out := [], closed := [], spTotalLen := half a.length, spOff := half a.length
          spSeqIdx := half frames.length
          spClen := BitVec.ofNat 8 (chunkAt a (frames.length - 1)).length
          xsAcc := streamAcc a (frames.length - 1), fbPhase := .done, fbCnt := 0
          sent := t.sent ++ frames, resp := some (Response.ok (.buffers frames)) } } := by
  obtain ⟨hlen, rfl⟩ := streamFrames_eq_ok_iff.mp h
  obtain ⟨_, _, _, _, _, hrun, hlast, -⟩ := t.begin.spRun_eq tag a hlen
  obtain ⟨rfl, rfl, rfl, rfl, rfl⟩ := hlast ha
  rw [State.streamAndRespond, if_neg (Nat.not_lt_of_le hlen), hrun, State.respondBuffers_eq,
    List.length_map, List.length_range]
  rfl

/-- The whole next state of a `CMD.TEXT` that succeeds, but for the row and column counters of `BP`:
what packing, wrapping and streaming leave (R153, R156, R139). -/
theorem execCmdText_of_ok {s : State} {frames : List Bytes}
    (h : cmdText s.tx.lat.width s.tx.lat.height s.raster s.tx.lat.b = .ok frames) :
    let payload := textPayloadBytes (bitmapBytes s.raster s.tx.lat.width.toNat) s.tx.lat.b
    ∃ (x : Half) (row : BitVec 4), execCmdText s = .next
      { s with
        tx := { s.tx with
          out := [], closed := [], bpChan := 2, bpX := x, bpRow := row
          bpColWord := lastColumnWord s.raster s.tx.lat.width.toNat
          tpPhase := .done, tpCnt := 0, spTotalLen := half payload.length
          spOff := half payload.length, spSeqIdx := half frames.length
          spClen := BitVec.ofNat 8 (chunkAt payload (frames.length - 1)).length
          xsAcc := streamAcc payload (frames.length - 1), fbPhase := .done, fbCnt := 0
          sent := s.tx.sent ++ frames, resp := some (Response.ok (.buffers frames)) } } := by
  obtain ⟨hheight, herr, hstream⟩ := cmdText_eq_ok_iff.mp h
  obtain ⟨x, row, hpacked⟩ := s.tx.begin.bpRun_eq s.raster _ s.tx.lat.width.isLt.le
  refine ⟨x, row, ?_⟩
  have hout : (s.tx.begin.bpRun s.raster s.tx.lat.width.toNat).out =
      bitmapBytes s.raster s.tx.lat.width.toNat := by
    rw [hpacked, TxAgent.begin_out, List.nil_append]
  simp only [execCmdText, if_neg (not_not.mpr hheight), State.composeText, State.txB, hout, herr,
    TxAgent.tpRun_eq, TxAgent.begin_out, List.nil_append]
  rw [State.streamAndRespond_of_ok s _ (textPayloadBytes_ne_nil _ _) hstream, hpacked]
  rfl

/-- However `CMD.TEXT` ends, it leaves no output buffer behind (R29). -/
theorem execCmdText_empties_buffers {s t : State} (h : execCmdText s = .next t) :
    t.tx.out = [] ∧ t.tx.closed = [] := by
  simp only [execCmdText, State.composeText, State.streamAndRespond] at h
  split at h
  · cases h
    exact ⟨rfl, rfl⟩
  · split at h
    · cases h
      exact ⟨rfl, rfl⟩
    · split at h
      · cases h
        exact ⟨rfl, rfl⟩
      · cases h
        exact ⟨rfl, rfl⟩

/-- Settles O25: `CMD.TEXT` answers by `cmd_text` whatever its outcome, and a success has run its
three units to their ends. -/
theorem cmdTextDeliversTheStream : Obligations.CmdTextDeliversTheStream := by
  refine ⟨rfl, fun s => ?_⟩
  obtain ⟨t, heq, hans⟩ := execCmdText_answers s.tx s.raster
  have hexec := heq s rfl rfl
  obtain ⟨hout, hclosed⟩ := execCmdText_empties_buffers hexec
  refine ⟨t, hexec, hans.lat, hans.busy, hout, hclosed, hans.resp, hans.sent, fun frames hok => ?_⟩
  obtain ⟨x, row, hnext⟩ := execCmdText_of_ok hok
  rw [hexec, Host.Outcome.next.injEq, State.mk.injEq] at hnext
  obtain ⟨rfl, -⟩ := hnext
  exact ⟨rfl, rfl, rfl, rfl, rfl, rfl, rfl, rfl, rfl⟩

/-! ### `CMD.MODE` (R167) -/

/-- The whole next state of building a frame where the declared length fits (R120, R122). -/
theorem State.buildAndRespond_of_le (s : State) (tag : Byte) {a : Bytes}
    (h : a.length ≤ INNER_MAX) :
    s.buildAndRespond tag a =
      { s with
        tx := { s.tx with
          out := [], closed := [], fbPhase := .done, fbCnt := 0
          sent := s.tx.sent ++ [frameBytes tag a]
          resp := some (Response.ok (.buffer (frameBytes tag a))) } } := by
  rw [State.buildAndRespond, if_neg (Nat.not_lt_of_le h), TxAgent.fbRun_eq _ _ _ h,
    State.respondBuffer_eq]
  rfl

/-- The body of a Mode frame: length 2, tag 6, the mode byte (R67, R167). -/
theorem frameBody_mode (mode : Byte) : frameBody TAG_MODE [mode] = [0x00, 0x02, 0x06, mode] := by
  have hlen : u16be (half 2) = [0x00, 0x02] := by decide
  rw [frameBody, List.length_singleton, hlen]
  rfl

/-- Settles O27: a payload of one byte always fits, so `FB` builds the frame whatever the mode byte
is. -/
theorem cmdModeDeliversTheModeFrame : Obligations.CmdModeDeliversTheModeFrame := by
  refine ⟨rfl, fun s => ?_⟩
  have hfits : [s.tx.lat.mode].length ≤ INNER_MAX := Nat.le_of_ble_eq_true rfl
  rw [← frameBody_mode]
  exact congrArg _ (s.buildAndRespond_of_le TAG_MODE hfits)

end Sys2Proof.Machine

namespace Sys2Proof.Machine

/-! ## The response decoder (46_response.md R175)

`ACK.DECODE` runs `FP` over the received message, so its next state differs from `FRAME.PARSE`'s only
in the response. -/

/-- Settles O19: `decode_ack` gives the response, and `FP`'s run writes only its own registers. -/
theorem ackDecodeAnswersTheFields : Obligations.AckDecodeAnswersTheFields := by
  refine ⟨rfl, fun s => ?_⟩
  obtain ⟨p, body, declared, hrun⟩ := RxAgent.fpRun_eq s.rx.begin s.rx.lat.a
  have hexec : exec .ackDecode s = .next (s.decodeAndRespond s.rx.lat.a) := rfl
  refine ⟨p, body, declared, ?_⟩
  rw [hexec, State.decodeAndRespond_eq, hrun]
  rfl

end Sys2Proof.Machine

namespace Sys2Proof.Machine

/-! ## Waiting (60_exceptions.md R224, 93_implementation_defined.md V3) -/

/-- The search for an event to serve fails exactly where every event has to wait. -/
theorem pick_eq_none_iff {s : State} {waiting : List Input} :
    pick s waiting = none ↔ ∀ i ∈ waiting, i.served s = false := by
  induction waiting with
  | nil => simp [pick]
  | cons i rest ih =>
    rw [pick, List.forall_mem_cons]
    cases hi : i.served s with
    | true => simp
    | false => simp [ih]

/-- Settles O8: the search finds no event, and then the step is the identity. -/
theorem nothingToServeChangesNothing : Obligations.NothingToServeChangesNothing := by
  intro s hwait
  have hpick : pick s s.inputs = none := pick_eq_none_iff.mpr hwait
  rw [step, stepOnce, hpick]

end Sys2Proof.Machine

namespace Sys2Proof.Machine

/-! ## What the decoder accepts (30_encoding.md R61 to R80)

Each format's decoder, read backwards: the checks it makes leave only the bytes the encoder writes
for the instruction it answers. -/

/-- The word `w` is the encoding of the well-formed instruction `i`. -/
structure EncodedAs (i : Instr) (w : Encoded) : Prop where
  wf : i.wf = true
  encode_eq : encode i = w

/-! ### Operation codes (R76, R79) -/

/-- Every request instruction the decoder answers is encoded as its code at its port. -/
theorem encodedAs_decodeOp (port : Agent) (op : BitVec 4) :
    EncodedAs (decodeOp port op) ⟨.request, port, [opByte op]⟩ := by
  have h : ∀ op, (decodeOp port op).wf = true ∧
      encode (decodeOp port op) = ⟨.request, port, [opByte op]⟩ := by
    cases port <;> decide
  obtain ⟨hwf, hencode⟩ := h op
  exact ⟨hwf, hencode⟩

theorem opByte_extractLsb' {b : Byte} (h : b.toNat < 16) : opByte (b.extractLsb' 0 4) = b := by
  apply BitVec.eq_of_toNat_eq
  simp only [opByte_toNat, BitVec.extractLsb'_toNat, Nat.shiftRight_zero]
  omega

theorem encodedAs_of_decodeRequest {port : Agent} {bytes : Bytes} {i : Instr}
    (h : decodeRequest port bytes = .ok i) : EncodedAs i ⟨.request, port, bytes⟩ := by
  unfold decodeRequest at h
  split at h
  · rename_i b
    split_ifs at h with hb
    cases h
    have hword := encodedAs_decodeOp port (b.extractLsb' 0 4)
    rwa [opByte_extractLsb' hb] at hword
  · cases h

/-! ### Pairs, plain bytes and markers (R61, R62, R73) -/

theorem encodedAs_of_decodePair {side : Agent} {bytes : Bytes} {i : Instr}
    (h : decodePair side bytes = .ok i) : EncodedAs i ⟨.escapePair, side, bytes⟩ := by
  unfold decodePair at h
  split at h
  · rename_i e second
    split_ifs at h with he h5 h6 h7
    all_goals obtain rfl : e = ESC_BYTE := not_not.mp he
    · subst h5; cases h; exact ⟨rfl, rfl⟩
    · subst h6; cases h; exact ⟨rfl, rfl⟩
    · subst h7; cases h; exact ⟨rfl, rfl⟩
    · cases side with
      | tx => cases h
      | rx => cases h; exact ⟨decide_eq_true ⟨h5, h6, h7⟩, rfl⟩
  · cases h

theorem encodedAs_of_decodePlain {side : Agent} {bytes : Bytes} {i : Instr}
    (h : decodePlain side bytes = .ok i) : EncodedAs i ⟨.plainByte, side, bytes⟩ := by
  unfold decodePlain at h
  split at h
  · cases side with
    | tx =>
      dsimp only at h
      split_ifs at h with hb
      cases h
      exact ⟨by simpa [Instr.wf] using hb, rfl⟩
    | rx =>
      dsimp only at h
      split_ifs at h with hb
      cases h
      exact ⟨decide_eq_true hb, rfl⟩
  · cases h

theorem encodedAs_of_decodeMarker {side : Agent} {bytes : Bytes} {i : Instr}
    (h : decodeMarker side bytes = .ok i) : EncodedAs i ⟨.marker, side, bytes⟩ := by
  unfold decodeMarker at h
  split at h
  · split_ifs at h with hsof heof
    · subst hsof; cases h; exact ⟨rfl, rfl⟩
    · subst heof; cases h; exact ⟨rfl, rfl⟩
  · cases h

/-! ### Frames (R62) -/

/-- A body that parses declares its length in two bytes, which bounds the inner payload (R123). -/
theorem length_le_of_parseBody {body payload : Bytes} {tag : Byte}
    (h : parseBody body = .ok (tag, payload)) : payload.length ≤ INNER_MAX := by
  unfold parseBody at h
  split at h
  · rename_i b0 b1 content
    have hdeclared := (be16 b0 b1).isLt
    split_ifs at h with hlen
    split at h
    · cases h
    · cases h
      rw [List.length_cons] at hlen
      rw [INNER_MAX]
      omega
  · cases h

theorem length_le_of_parseFrame {a payload : Bytes} {tag : Byte}
    (h : parseFrame a = .ok (tag, payload)) : payload.length ≤ INNER_MAX := by
  obtain ⟨hmarkers, hbody⟩ := markersOk_and_unescape_of_parseFrame h
  rw [parseFrame, if_pos hmarkers, hbody] at h
  exact length_le_of_parseBody (body := frameBody tag payload) h

theorem encodedAs_of_decodeFrame {side : Agent} {bytes : Bytes} {i : Instr}
    (h : decodeFrame side bytes = .ok i) : EncodedAs i ⟨.frame, side, bytes⟩ := by
  unfold decodeFrame at h
  split at h
  · cases h
  · rename_i tag payload hparse
    split_ifs at h with hbytes
    cases h
    exact ⟨decide_eq_true (length_le_of_parseFrame hparse), congrArg _ hbytes⟩

/-! ### Tags and modes (R69, R70) -/

theorem encodedAs_of_decodeTag {bytes : Bytes} {i : Instr} (h : decodeTag bytes = .ok i) :
    EncodedAs i ⟨.tag, .tx, bytes⟩ := by
  unfold decodeTag at h
  split at h
  · split_ifs at h with htext hmode
    · subst htext; cases h; exact ⟨rfl, rfl⟩
    · subst hmode; cases h; exact ⟨rfl, rfl⟩
  · cases h

theorem byte_eq_ofNat {b : Byte} {n : Nat} (h : b.toNat = n) : b = BitVec.ofNat 8 n := by
  rw [← h, BitVec.ofNat_toNat, BitVec.setWidth_eq]

theorem encodedAs_of_decodeMode {bytes : Bytes} {i : Instr} (h : decodeMode bytes = .ok i) :
    EncodedAs i ⟨.mode, .tx, bytes⟩ := by
  unfold decodeMode at h
  split at h
  · rename_i b
    split at h
    case h_9 => cases h
    all_goals
      rename_i hb
      cases h
      obtain rfl := byte_eq_ofNat hb
      exact ⟨rfl, rfl⟩
  · cases h

/-! ### Sub-packets (R64) -/

/-- The chunk-length byte and the checks after it fix every other byte. -/
theorem encodedAs_of_decodeSubpacket {bytes : Bytes} {i : Instr}
    (h : decodeSubpacket bytes = .ok i) : EncodedAs i ⟨.subpacket, .tx, bytes⟩ := by
  unfold decodeSubpacket at h
  split at h
  · rename_i lead t1 t0 i1 i0 n rest
    dsimp only at h
    split_ifs at h with hlead hlen hsum
    cases h
    rw [not_or, not_not, Nat.not_lt] at hlen
    obtain ⟨hmax, hrest⟩ := hlen
    have hchunk : (rest.take n.toNat).length = n.toNat := by
      rw [List.length_take]
      omega
    have hhead : subpacketHead (be16 t1 t0) (be16 i1 i0) (rest.take n.toNat) =
        lead :: t1 :: t0 :: i1 :: i0 :: n :: rest.take n.toNat := by
      rw [subpacketHead, u16be_be16, u16be_be16, hchunk, not_not.mp hlead, ← byte_eq_ofNat rfl]
      rfl
    refine ⟨decide_eq_true (hchunk.trans_le hmax), ?_⟩
    rw [encode, subpacketBytes, hhead, ← not_not.mp hsum]
    simp only [List.cons_append, List.take_append_drop]
  · cases h

/-! ### Text payloads (R66) -/

/-- A caption field of the right size whose padding is checked is its caption and zeros. -/
theorem encodedAs_of_decodeCaption {k : Byte} {field tail : Bytes} {i : Instr}
    (hfield : field.length = CAPTION_MAX) (h : decodeCaption k field tail = .ok i) :
    EncodedAs i ⟨.textPayload, .tx, List.replicate TEXT_RESERVED 0 ++ k :: (field ++ tail)⟩ := by
  unfold decodeCaption at h
  split at h
  · rename_i l1 l0 bitmap
    split_ifs at h with hlen hpad
    cases h
    rw [not_or, not_not, Nat.not_lt] at hlen
    obtain ⟨hk, hbm⟩ := hlen
    have hcap : (field.take k.toNat).length = k.toNat := by
      rw [List.length_take]
      omega
    constructor
    · have hcaple : (field.take k.toNat).length ≤ CAPTION_MAX := hcap.trans_le hk
      have hbmle : bitmap.length ≤ FIELD_MAX := hbm.trans_le (Nat.le_of_lt_succ (be16 l1 l0).isLt)
      simp only [Instr.wf, hcaple, hbmle, decide_true, Bool.and_self]
    · rw [encode, textPayloadBytes, hcap, ← not_not.mp hpad, hbm, half_of_toNat, u16be_be16,
        ← byte_eq_ofNat rfl]
      simp
  · cases h

/-- The reserved bytes and the caption field are there in full, since 107 bytes are. -/
theorem encodedAs_of_decodeText {bytes : Bytes} {i : Instr} (h : decodeText bytes = .ok i) :
    EncodedAs i ⟨.textPayload, .tx, bytes⟩ := by
  unfold decodeText at h
  split_ifs at h with hlen hreserved
  split at h
  · rename_i k rest hrest
    have hbytes : List.replicate TEXT_RESERVED 0 ++ k :: rest = bytes := by
      rw [← not_not.mp hreserved, ← hrest, List.take_append_drop]
    have hfield : (rest.take CAPTION_MAX).length = CAPTION_MAX := by
      rw [← hbytes, List.length_append, List.length_replicate, List.length_cons] at hlen
      simp only [TEXT_HDR, TEXT_RESERVED] at hlen
      rw [List.length_take, CAPTION_MAX]
      omega
    have hword := encodedAs_of_decodeCaption hfield h
    rwa [List.take_append_drop, hbytes] at hword
  · cases h

/-! ### Column words, Mode payloads and acknowledgements (R65, R67, R68) -/

theorem encodedAs_of_decodeColumn {bytes : Bytes} {i : Instr} (h : decodeColumn bytes = .ok i) :
    EncodedAs i ⟨.columnWord, .tx, bytes⟩ := by
  unfold decodeColumn at h
  split at h
  · rename_i hi lo
    cases h
    exact ⟨rfl, congrArg (Encoded.mk _ _) (u16be_be16 hi lo)⟩
  · cases h

theorem encodedAs_of_decodeModePayload {bytes : Bytes} {i : Instr}
    (h : decodeModePayload bytes = .ok i) : EncodedAs i ⟨.modePayload, .tx, bytes⟩ := by
  unfold decodeModePayload at h
  split at h
  · cases h
    exact ⟨rfl, rfl⟩
  · cases h

theorem encodedAs_of_decodeAckContent {bytes : Bytes} {i : Instr}
    (h : decodeAckContent bytes = .ok i) : EncodedAs i ⟨.ackContent, .rx, bytes⟩ := by
  unfold decodeAckContent at h
  split at h
  · cases h
    refine ⟨rfl, ?_⟩
    rw [encode, u16be_be16]
    rfl
  · cases h

theorem encodedAs_of_decodeAckStatus {bytes : Bytes} {i : Instr}
    (h : decodeAckStatus bytes = .ok i) : EncodedAs i ⟨.ackStatus, .rx, bytes⟩ := by
  unfold decodeAckStatus at h
  split at h
  · split_ifs at h with hok
    subst hok
    cases h
    exact ⟨rfl, rfl⟩
  · cases h

/-! ### Every format -/

/-- A format of one side is decoded on that side alone (R80, R81). -/
theorem onSide_eq_ok_iff {want side : Agent} {o : Except Reject Instr} {i : Instr} :
    onSide want side o = .ok i ↔ want = side ∧ o = .ok i := by
  unfold onSide
  split
  · rename_i h
    simp [h]
  · rename_i h
    simp [h]

/-- A format of one side accepts what its decoder accepts, at that side. -/
theorem encodedAs_of_onSide {f : Format} {want side : Agent} {bytes : Bytes} {i : Instr}
    {d : Bytes → Except Reject Instr} (hd : d bytes = .ok i → EncodedAs i ⟨f, want, bytes⟩)
    (h : onSide want side (d bytes) = .ok i) : EncodedAs i ⟨f, side, bytes⟩ := by
  obtain ⟨rfl, hok⟩ := onSide_eq_ok_iff.mp h
  exact hd hok

theorem encodedAs_of_decode {f : Format} {side : Agent} {bytes : Bytes} {i : Instr}
    (h : decode f side bytes = .ok i) : EncodedAs i ⟨f, side, bytes⟩ := by
  cases f with
  | request => exact encodedAs_of_decodeRequest h
  | escapePair => exact encodedAs_of_decodePair h
  | plainByte => exact encodedAs_of_decodePlain h
  | marker => exact encodedAs_of_decodeMarker h
  | frame => exact encodedAs_of_decodeFrame h
  | tag => exact encodedAs_of_onSide encodedAs_of_decodeTag h
  | mode => exact encodedAs_of_onSide encodedAs_of_decodeMode h
  | subpacket => exact encodedAs_of_onSide encodedAs_of_decodeSubpacket h
  | columnWord => exact encodedAs_of_onSide encodedAs_of_decodeColumn h
  | textPayload => exact encodedAs_of_onSide encodedAs_of_decodeText h
  | modePayload => exact encodedAs_of_onSide encodedAs_of_decodeModePayload h
  | ackContent => exact encodedAs_of_onSide encodedAs_of_decodeAckContent h
  | ackStatus => exact encodedAs_of_onSide encodedAs_of_decodeAckStatus h

/-- Settles O2: format by format, the bytes that pass the checks are those the encoder writes. -/
theorem decodeAcceptsOnlyEncodings : Obligations.DecodeAcceptsOnlyEncodings := by
  intro f side bytes i h
  obtain ⟨hwf, hencode⟩ := encodedAs_of_decode h
  exact ⟨hwf, hencode⟩

end Sys2Proof.Machine

namespace Sys2Proof.Machine

/-! ## Serving events in turn (70_reset_and_hazards.md R230, R231, R240, 93 V1 to V3)

The step passes over the events that must wait and serves the first that can be served. What an
event needs is its agent ready, and what it changes is that agent: so a busy agent is left alone by
everything but a response taken and `rst`. -/

/-! ### The event that is served (R240, V1) -/

/-- Events that must wait are passed over and stay where they are. -/
theorem pick_append_of_waiting {s : State} {waiting : List Input} {i : Input} (rest : List Input)
    (hwait : ∀ j ∈ waiting, j.served s = false) (hi : i.served s = true) :
    pick s (waiting ++ i :: rest) = some (i, waiting ++ rest) := by
  induction waiting with
  | nil => simp only [List.nil_append, pick, hi, if_true]
  | cons w waiting ih =>
    obtain ⟨hw, hwait⟩ := List.forall_mem_cons.mp hwait
    simp only [List.cons_append, pick, hw, ih hwait, Bool.false_eq_true, if_false, Option.map_some]

theorem step_of_waiting {s : State} {waiting : List Input} {i : Input} {rest : List Input}
    (h : s.inputs = waiting ++ i :: rest) (hwait : ∀ j ∈ waiting, j.served s = false)
    (hi : i.served s = true) : step s = serve { s with inputs := waiting ++ rest } i := by
  simp only [step, stepOnce, h, pick_append_of_waiting rest hwait hi]

/-- What is picked was among the events, and can be served. -/
theorem of_pick_eq_some {s : State} {events rest : List Input} {i : Input}
    (h : pick s events = some (i, rest)) : i ∈ events ∧ i.served s = true := by
  induction events generalizing rest with
  | nil => cases h
  | cons j events ih =>
    unfold pick at h
    split_ifs at h with hj
    · cases h
      exact ⟨List.mem_cons_self, hj⟩
    · obtain ⟨⟨i', rest'⟩, hpick, heq⟩ := Option.map_eq_some_iff.mp h
      cases heq
      obtain ⟨hmem, hserved⟩ := ih hpick
      exact ⟨List.mem_cons_of_mem j hmem, hserved⟩

theorem TxAgent.ready_eq_false_iff (t : TxAgent) :
    t.ready = false ↔ t.busy = true ∨ t.resp ≠ none := by
  rw [← Bool.not_eq_true, TxAgent.ready_iff, not_and_or, Bool.not_eq_false]

theorem RxAgent.ready_eq_false_iff (r : RxAgent) :
    r.ready = false ↔ r.busy = true ∨ r.resp ≠ none := by
  rw [← Bool.not_eq_true, RxAgent.ready_iff, not_and_or, Bool.not_eq_false]

/-- Settles O7: the request waits because its agent is not ready, and is passed over with whatever
waits behind it. -/
theorem requestToABusyAgentWaits : Obligations.RequestToABusyAgentWaits := by
  refine ⟨fun s _ => s.tx.ready_iff, fun s _ => s.rx.ready_iff, fun _ _ _ => ⟨rfl, rfl, rfl⟩,
    fun s w hbusy => ?_⟩
  have hw : w.served s = false := by
    obtain ⟨⟨r, rfl⟩, hbusy⟩ | ⟨⟨r, rfl⟩, hbusy⟩ := hbusy
    · exact s.tx.ready_eq_false_iff.mpr hbusy
    · exact s.rx.ready_eq_false_iff.mpr hbusy
  have hone : ∀ j ∈ [w], j.served s = false := List.forall_mem_singleton.mpr hw
  refine ⟨fun h => nothingToServeChangesNothing s (h ▸ hone),
    fun _ h => step_of_waiting (waiting := [w]) h hone rfl,
    fun _ h => step_of_waiting (waiting := [w]) h hone rfl,
    fun _ _ h hidle hresp =>
      step_of_waiting (waiting := [w]) h hone (s.tx.ready_iff.mpr ⟨hidle, hresp⟩),
    fun _ _ h hidle hresp =>
      step_of_waiting (waiting := [w]) h hone (s.rx.ready_iff.mpr ⟨hidle, hresp⟩),
    fun waiting _ _ h hwait hi =>
      step_of_waiting (waiting := w :: waiting) h (List.forall_mem_cons.mpr ⟨hw, hwait⟩) hi⟩

/-- Settles O6: a ready agent's code point is served, by `exec` of what its bytes decode to. -/
theorem stepRunsTheDecodedCodePoint : Obligations.StepRunsTheDecodedCodePoint := by
  intro s rest f side bytes h hready
  have hstep : step s = { s with inputs := rest }.runWire f side bytes := step_of_served h hready
  rw [hstep]
  refine ⟨fun i hf hok => ?_, fun e hf herr => ?_, fun hf => if_pos hf⟩
  · simp only [State.runWire, if_neg hf, hok]
  · simp only [State.runWire, if_neg hf, herr]

/-- Settles O60: the agent is ready, so the event is served, and it has no result. -/
theorem changedOperandsAreRefused : Obligations.ChangedOperandsAreRefused :=
  fun _ _ _ h hready => step_of_served h hready

/-! ### `rst` (R36, R230, R231) -/

/-- What `rst` leaves of a machine whose operation had delivered these messages. -/
def State.afterRst (s : State) (msgs : List Bytes) (rest : List Input) : State :=
  { s with inputs := rest, tx := { s.tx with sent := s.tx.sent ++ msgs } }.rst

/-- Settles O11: the event is served at any time, and `rst` keeps the messages alone. -/
theorem resetKeepsOnlyWhatWasDelivered : Obligations.ResetKeepsOnlyWhatWasDelivered :=
  fun _ _ h => step_of_served h rfl

section CutShort

variable {s : State} {rest : List Input} {r : TxLatches} {k : Nat}
  (h : s.inputs = .txCutShort r k :: rest) (hbusy : s.tx.busy = false) (hresp : s.tx.resp = none)

include h hbusy hresp

/-- `rst` keeps the first `k` of the messages the operation would have delivered (R231). -/
theorem step_of_txCutShort {done : State} {msgs : List Bytes}
    (hrun : { s with inputs := rest }.runTx r = .next done)
    (hsent : done.tx.sent = s.tx.sent ++ msgs) :
    step s = .next (s.afterRst (msgs.take k) rest) := by
  rw [step_of_served h (s.tx.ready_iff.mpr ⟨hbusy, hresp⟩)]
  simp only [serve, hrun, State.cutShort, hsent, List.drop_left]
  rfl

theorem TxAnswers.step_of_txCutShort {op : BitVec 4} {p : TxLatches → Memory → Response}
    {msgs : TxLatches → Memory → List Bytes} (hans : TxAnswers (exec (decodeOp .tx op)) p msgs)
    (howner : opOwner op = some .tx) (hop : r.op = op) :
    step s = .next (s.afterRst ((msgs r s.raster).take k) rest) := by
  subst hop
  obtain ⟨t', heq, hans⟩ := hans { s.tx with lat := r } s.raster
  refine Machine.step_of_txCutShort h hbusy hresp (done := { s with inputs := rest, tx := t' }) ?_
    hans.sent
  rw [State.runTx, State.acceptTx, if_pos howner]
  exact heq _ rfl rfl

/-- A request that is refused delivers nothing, cut short or not (R79, R231). -/
theorem step_of_misplaced_txCutShort (howner : opOwner r.op ≠ some .tx) :
    step s = .next (s.afterRst [] rest) := by
  have hnext := step_of_txCutShort h hbusy hresp (State.runTx_of_misplaced _ howner)
    (List.append_nil _).symm
  rwa [List.take_nil] at hnext

end CutShort

/-- Settles O12: the frames of `stream_frames` and of `cmd_text`, of which an error has none. -/
theorem resetCutsAStreamShort : Obligations.ResetCutsAStreamShort := by
  intro s rest r k h hbusy hresp after
  have hstream := TxAnswers.step_of_txCutShort h hbusy hresp (op := 0x7) execStreamSend_answers rfl
  have htext := TxAnswers.step_of_txCutShort h hbusy hresp (op := 0xA) execCmdText_answers rfl
  refine ⟨fun hop hlen => ?_, fun hop hlen => ?_, fun hop frames hok => ?_, fun hop e herr => ?_⟩
  · rw [hstream hop, streamFrames_eq_ok_iff.mpr ⟨hlen, rfl⟩]
    rfl
  · rw [hstream hop, streamFrames, if_pos hlen, delivered, List.take_nil]
    rfl
  · rw [htext hop, hok]
    rfl
  · rw [htext hop, herr, delivered, List.take_nil]
    rfl

/-- The operations of `TX` other than the four that make frames deliver nothing (R41). -/
theorem txAnswers_without_messages {op : BitVec 4} (howner : opOwner op = some .tx)
    (hop : op ≠ 0x3 ∧ op ≠ 0x7 ∧ op ≠ 0xA ∧ op ≠ 0xB) :
    ∃ p, TxAnswers (exec (decodeOp .tx op)) p fun _ _ => [] := by
  have hcodes : op = 0x0 ∨ op = 0x2 ∨ op = 0x6 ∨ op = 0x8 ∨ op = 0x9 := by
    revert op
    decide
  obtain rfl | rfl | rfl | rfl | rfl := hcodes
  · exact ⟨_, execEsc_answers⟩
  · exact ⟨_, execXsum_answers⟩
  · exact ⟨_, execSubpktFmt_answers⟩
  · exact ⟨_, execBmpPack_answers⟩
  · exact ⟨_, execTextPayload_answers⟩

/-- Settles O57: an operation without frames has none to keep, and of the two that make one frame
`k` decides. -/
theorem resetAbandonsAnyOtherOperation : Obligations.ResetAbandonsAnyOtherOperation := by
  intro s rest after
  constructor
  · intro r k h hbusy hresp
    have hbuild :=
      TxAnswers.step_of_txCutShort h hbusy hresp (op := 0x3) execFrameBuild_answers rfl
    have hmode := TxAnswers.step_of_txCutShort h hbusy hresp (op := 0xB) execCmdMode_answers rfl
    refine ⟨fun h3 h7 hA hB => ?_, fun hop hlen => ?_, fun hop hlen => ?_, fun hop => ?_⟩
    · by_cases howner : opOwner r.op = some .tx
      · obtain ⟨p, hans⟩ := txAnswers_without_messages howner ⟨h3, h7, hA, hB⟩
        rw [hans.step_of_txCutShort h hbusy hresp howner rfl, List.take_nil]
        rfl
      · exact step_of_misplaced_txCutShort h hbusy hresp howner
    · rw [hbuild hop, buildFrame_eq_ok_iff.mpr ⟨hlen, rfl⟩]
      rfl
    · rw [hbuild hop, buildFrame, if_pos hlen, Except.map, delivered, List.take_nil]
      rfl
    · exact hmode hop
  · intro r h hbusy hresp
    rw [step_of_served h (s.rx.ready_iff.mpr ⟨hbusy, hresp⟩)]
    simp only [after, List.append_nil]
    rfl

/-! ### A busy agent (V3) -/

/-- The agent of a port is the same in both states. -/
def State.SameAgent (s t : State) : Agent → Prop
  | .tx => t.tx = s.tx
  | .rx => t.rx = s.rx

/-- The agent an event needs ready, if any. -/
def Input.port : Input → Option Agent
  | .txRequest _ | .txCutShort _ _ => some .tx
  | .rxRequest _ | .rxCutShort _ => some .rx
  | .wire _ side _ => some side
  | .starve port | .unstable port => some port
  | .take _ | .raster _ | .reset => none

/-- The events in which the outside drives `rst`. -/
def Input.drivesRst : Input → Bool
  | .reset | .txCutShort _ _ | .rxCutShort _ => true
  | _ => false

theorem Input.drivesRst_iff {i : Input} :
    i.drivesRst = true ↔ i = .reset ∨ (∃ r k, i = .txCutShort r k) ∨ ∃ r, i = .rxCutShort r := by
  cases i <;> simp [Input.drivesRst]

theorem Input.served_of_port {s : State} {i : Input} {port : Agent} (h : i.port = some port) :
    i.served s = s.ready port := by
  cases i <;> cases h <;> rfl

theorem Instr.side_decodeOp (port : Agent) (op : BitVec 4) : Instr.side (decodeOp port op) = port :=
  congrArg Encoded.side (encodedAs_decodeOp port op).encode_eq

/-- A code point runs on the side it is presented to. -/
theorem Instr.side_of_decode {f : Format} {side : Agent} {bytes : Bytes} {i : Instr}
    (h : decode f side bytes = .ok i) : Instr.side i = side :=
  congrArg Encoded.side (encodedAs_of_decode h).encode_eq

theorem exec_sameAgent {i : Instr} {s t : State} {port : Agent} (hside : Instr.side i ≠ port)
    (ht : exec i s = .next t) : s.SameAgent t port := by
  obtain ⟨t', ht', -, -, -, -, -, -, hrx, htx⟩ := everyInstructionEndsOnItsSide i s
  obtain rfl : t' = t := Host.Outcome.next.inj (ht'.symm.trans ht)
  cases hi : Instr.side i with
  | tx =>
    cases port with
    | tx => exact absurd hi hside
    | rx => exact hrx hi
  | rx =>
    cases port with
    | tx => exact htx hi
    | rx => exact absurd hi hside

theorem State.acceptTx_rx (s : State) (r : TxLatches) : (s.acceptTx r).rx = s.rx := by
  unfold State.acceptTx
  split <;> rfl

theorem State.acceptRx_tx (s : State) (r : RxLatches) : (s.acceptRx r).tx = s.tx := by
  unfold State.acceptRx
  split <;> rfl

theorem State.take_sameAgent (s : State) :
    ∀ {p port : Agent}, p ≠ port → s.SameAgent (s.take p) port
  | .tx, .rx, _ | .rx, .tx, _ => rfl
  | .tx, .tx, h | .rx, .rx, h => absurd rfl h

theorem State.starve_sameAgent (s : State) :
    ∀ {p port : Agent}, p ≠ port → s.SameAgent (s.starve p) port
  | .tx, .rx, _ | .rx, .tx, _ => rfl
  | .tx, .tx, h | .rx, .rx, h => absurd rfl h

/-- An event that neither needs an agent nor takes its response nor drives `rst` leaves it alone. -/
theorem serve_sameAgent {s t : State} {i : Input} {port : Agent} (hport : i.port ≠ some port)
    (htake : i ≠ .take port) (hrst : i.drivesRst = false) (ht : serve s i = .next t) :
    s.SameAgent t port := by
  cases i with
  | txRequest r =>
    cases port with
    | tx => exact absurd rfl hport
    | rx =>
      have hside : Instr.side (decodeOp .tx r.op) ≠ .rx := by simp [Instr.side_decodeOp]
      exact (exec_sameAgent hside ht).trans (s.acceptTx_rx r)
  | rxRequest r =>
    cases port with
    | tx =>
      have hside : Instr.side (decodeOp .rx r.op) ≠ .tx := by simp [Instr.side_decodeOp]
      exact (exec_sameAgent hside ht).trans (s.acceptRx_tx r)
    | rx => exact absurd rfl hport
  | wire f side bytes =>
    simp only [serve, State.runWire] at ht
    split_ifs at ht
    split at ht
    · rename_i i hdecode
      have hside : Instr.side i = side := Instr.side_of_decode hdecode
      exact exec_sameAgent (fun h => hport (congrArg some (hside.symm.trans h))) ht
    · cases ht
  | take p => cases ht; exact s.take_sameAgent fun h => htake (congrArg _ h)
  | raster pixels => cases ht; cases port <;> rfl
  | starve p => cases ht; exact s.starve_sameAgent fun h => hport (congrArg _ h)
  | unstable p => cases ht
  | reset | txCutShort r k | rxCutShort r => cases hrst

/-- An agent that is not ready stays as it is but for a response taken, where no event drives `rst`
without waiting for it (V3). -/
theorem step_of_not_ready {s t : State} {port : Agent} (hready : s.ready port = false)
    (hrst : ∀ i ∈ s.inputs, i.drivesRst = true → i.port = some port) (ht : step s = .next t) :
    s.SameAgent t port ∨ (s.take port).SameAgent t port := by
  unfold step stepOnce at ht
  split at ht
  · cases ht
    cases port with
    | tx => exact .inl rfl
    | rx => exact .inl rfl
  · rename_i i rest hpick
    obtain ⟨hmem, hserved⟩ := of_pick_eq_some hpick
    have hport : i.port ≠ some port := fun h => by
      rw [Input.served_of_port h, hready] at hserved
      cases hserved
    have hno : i.drivesRst = false := Bool.eq_false_iff.mpr fun h => hport (hrst i hmem h)
    by_cases htake : i = .take port
    · subst htake
      cases ht
      cases port with
      | tx => exact .inr rfl
      | rx => exact .inr rfl
    · have hsame := serve_sameAgent hport htake hno ht
      cases port with
      | tx => exact .inl hsame
      | rx => exact .inl hsame

/-- Settles O59: the event sets the busy bit, and from then on the agent is not ready, so that only
an event of the other agent or of none is served. -/
theorem starvedAgentWaitsUntilReset : Obligations.StarvedAgentWaitsUntilReset := by
  refine ⟨fun s rest => ⟨fun h hbusy hresp => ?_, fun h hbusy hresp => ?_⟩,
    fun s t hbusy hreset hcut ht => ?_, fun s t hbusy hreset hcut ht => ?_⟩
  · exact step_of_served h (s.tx.ready_iff.mpr ⟨hbusy, hresp⟩)
  · exact step_of_served h (s.rx.ready_iff.mpr ⟨hbusy, hresp⟩)
  · refine step_of_not_ready (port := .tx) (s.tx.ready_eq_false_iff.mpr (.inl hbusy)) ?_ ht
    intro i hmem hrst
    obtain rfl | ⟨r, k, rfl⟩ | ⟨r, rfl⟩ := Input.drivesRst_iff.mp hrst
    · exact absurd hmem hreset
    · rfl
    · exact absurd hmem (hcut r)
  · refine step_of_not_ready (port := .rx) (s.rx.ready_eq_false_iff.mpr (.inl hbusy)) ?_ ht
    intro i hmem hrst
    obtain rfl | ⟨r, k, rfl⟩ | ⟨r, rfl⟩ := Input.drivesRst_iff.mp hrst
    · exact absurd hmem hreset
    · exact absurd hmem (hcut r k)
    · rfl

end Sys2Proof.Machine

namespace Sys2Proof.Machine

/-! ## Code points (30_encoding.md R61 to R70)

Each code point is one line of a unit's realisation, so its next state is read off from what that
line does to the agent. What `RX` reads byte by byte ends as `FRAME.PARSE` of the whole message
does. -/

/-! ### Written by `EE` and `FB` (R61, R67, R69, R102, R122) -/

/-- A body byte written by `EE` appends its wire form to the open buffer (R102). -/
theorem State.bodyByte_tx (s : State) (b : Byte) (wire : Bytes) :
    s.bodyByte .tx b wire = { s with tx := { s.tx with out := s.tx.out ++ escapeByte b } } :=
  congrArg (fun t => { s with tx := t }) (s.tx.escEmit_eq b)

/-- Settles O29: the bytes of `ESC_SET` are written as their pairs, every other as itself. -/
theorem codePointsWrittenByEe : Obligations.CodePointsWrittenByEe := by
  refine fun s => ⟨congrArg _ (s.bodyByte_tx 0x01 _), congrArg _ (s.bodyByte_tx 0x02 _),
    congrArg _ (s.bodyByte_tx 0x03 _), fun b hb => ?_⟩
  rw [← escapeByte_of_not_mem hb]
  exact congrArg _ (s.bodyByte_tx b _)

/-- Settles O32: lines `SOF` and `EOF`, the second of which delivers the open buffer. -/
theorem markersWrittenByFb : Obligations.MarkersWrittenByFb := fun _ => ⟨rfl, rfl⟩

theorem payOrEof_eq (cnt : Half) : payOrEof cnt = if cnt = 0 then .eof else .pay := by
  have hzero : cnt.toNat = 0 ↔ cnt = 0 := BitVec.toNat_inj (y := 0)
  simp only [payOrEof, Nat.pos_iff_ne_zero, ne_eq, hzero, ite_not]

/-- Line `TAG` of R122. -/
theorem State.fbTag_eq (s : State) (tag : Byte) :
    { s with tx := s.tx.fbTag tag } =
      { s with
        tx := { s.tx with
          out := s.tx.out ++ escapeByte tag
          fbPhase := if s.tx.fbCnt = 0 then .eof else .pay } } := by
  rw [TxAgent.fbTag, TxAgent.escEmit_eq, payOrEof_eq]

/-- Settles O33: tag 2 is a byte of `ESC_SET`, tag 6 is none. -/
theorem tagsWrittenByFb : Obligations.TagsWrittenByFb := fun s =>
  ⟨congrArg _ (s.fbTag_eq TAG_TEXT), congrArg _ (s.fbTag_eq TAG_MODE)⟩

/-- Line `PAY` of R122 on the one byte of a Mode payload. -/
theorem State.modeByte_eq (s : State) (mode : Byte) :
    s.modeByte mode =
      { s with
        tx := { s.tx with out := s.tx.out ++ escapeByte mode, fbCnt := 0, fbPhase := .eof } } := by
  have hcnt : (1 : Half) - 1 = 0 := by decide
  simp only [State.modeByte, TxAgent.fbPay, TxAgent.escEmit_eq, hcnt, payOrEof_eq, if_true]

/-- Settles O34: modes 1 to 3 are bytes of `ESC_SET`, modes 4 to 8 are none. -/
theorem modeValuesWrittenByFb : Obligations.ModeValuesWrittenByFb := fun s =>
  ⟨congrArg _ (s.modeByte_eq 1), congrArg _ (s.modeByte_eq 2), congrArg _ (s.modeByte_eq 3),
    congrArg _ (s.modeByte_eq 4), congrArg _ (s.modeByte_eq 5), congrArg _ (s.modeByte_eq 6),
    congrArg _ (s.modeByte_eq 7), congrArg _ (s.modeByte_eq 8)⟩

/-! ### Read by `UE` (R61, R73, R104) -/

/-- Bytes that unescape, received at a pair boundary, end at one (R104, R124). -/
theorem State.receive_of_unescape {s : State} {wire value : Bytes}
    (hpending : s.rx.uePending = false) (h : unescape wire = .ok value) :
    s.receive wire =
      { s with
        rx := { s.rx with fpBuf := s.rx.fpBuf ++ wire, fpBody := s.rx.fpBody ++ value } } := by
  have hrun := ueRun_ok s.rx.fpBody h
  rw [← hpending] at hrun
  rw [State.receive_eq wire s (by rw [hrun]; nofun), hrun]

theorem hasPairValue_iff (second : Byte) : hasPairValue second = true ↔ 4 ≤ second.toNat :=
  decide_eq_true_iff

theorem unescape_pair {second : Byte} (h : 4 ≤ second.toNat) :
    unescape [ESC_BYTE, second] = .ok [second - ESC_OFFSET] := by
  simp only [unescape, (hasPairValue_iff second).mpr h, if_true]
  rfl

theorem unescape_plain {b : Byte} (h : b ≠ ESC_BYTE) : unescape [b] = .ok [b] := if_neg h

/-- Settles O30: each is received as a whole pair or a byte outside one. -/
theorem codePointsReadByUe : Obligations.CodePointsReadByUe := by
  intro s hpending read
  have hread {wire value : Bytes} (h : unescape wire = .ok value) :
      .next (s.receive wire) = read wire value :=
    congrArg _ (State.receive_of_unescape hpending h)
  exact ⟨hread rfl, hread rfl, hread rfl, hread rfl, fun _ hb => hread (unescape_plain hb),
    fun _ hs => hread (unescape_pair hs)⟩

/-- Settles O31: the introducer opens a pair, and the byte after it has no value. -/
theorem pairBelowFourRaisesInvalidEscape : Obligations.PairBelowFourRaisesInvalidEscape := by
  intro s second hpending hsecond
  have hvalue : hasPairValue second = false :=
    Bool.eq_false_iff.mpr fun h => Nat.not_le_of_lt hsecond ((hasPairValue_iff second).mp h)
  simp only [exec, execPairLenient, State.receive, RxAgent.fpByte, ueStep, hpending, hvalue,
    Bool.false_eq_true, if_false, if_true, Option.map_some, Option.map_none, State.raiseRx_eq,
    List.append_nil, List.append_assoc]
  rfl

/-- Settles O35: the message's first byte is kept, and the registers behind it are cleared. -/
theorem startMarkerReadBeginsAMessage : Obligations.StartMarkerReadBeginsAMessage := fun _ => rfl

/-! ### The end of a message (R123, R124) -/

/-- What the end of a message is answered with: the marker check, then the open pair, then steps 3
to 5 of R123 on the body. -/
def RxAgent.endOutcome (r : RxAgent) : Except ErrorKind (Byte × Bytes) :=
  if markersOk r.fpBuf then
    if r.uePending then .error .truncatedEscape else parseBody r.fpBody
  else .error .invalidFraming

theorem RxAgent.fpFields_of_cons {r : RxAgent} {b0 b1 : Byte} {content : Bytes}
    (h : r.fpBody = b0 :: b1 :: content) : r.fpFields.1 = { r with fpDeclared := be16 b0 b1 } := by
  rw [RxAgent.fpFields, h]

/-- The end of a message writes `FP.declared` alone, and where it parses it writes what the body
declares. -/
theorem RxAgent.fpEnd_eq_endOutcome (r : RxAgent) :
    ∃ declared, r.fpEnd = ({ r with fpDeclared := declared }, r.endOutcome) ∧
      ∀ v b0 b1 content, r.endOutcome = .ok v → r.fpBody = b0 :: b1 :: content →
        declared = be16 b0 b1 := by
  unfold RxAgent.fpEnd RxAgent.endOutcome
  split_ifs
  · exact ⟨r.fpDeclared, rfl, nofun⟩
  · exact ⟨r.fpFields.1.fpDeclared, rfl, fun _ _ _ _ _ hbody => by
      rw [RxAgent.fpFields_of_cons hbody]⟩
  · exact ⟨r.fpDeclared, rfl, nofun⟩

/-- The next state of `EOF` on `RX`, from how the message ended. -/
theorem execEof_rx_eq {s : State} {u : RxAgent × Except ErrorKind (Byte × Bytes)}
    (h : RxAgent.fpEnd { s.rx with fpBuf := s.rx.fpBuf ++ [EOF] } = u) :
    exec (.eof .rx) s = .next
      { s with
        rx := { u.1 with
          out := []
          resp := some (decodeResponse (s.rx.fpBuf ++ [EOF])
            (u.2.map fun v => .parsed v.1 v.2)) } } := by
  subst h
  exact congrArg _ (State.answerParse_eq s _ _)

/-- Settles O37: the end marker is kept, and the message is answered by its outcome. -/
theorem endMarkerReadCompletes : Obligations.EndMarkerReadCompletes := by
  intro s message outcome
  obtain ⟨declared, hend, hdeclared⟩ :=
    RxAgent.fpEnd_eq_endOutcome { s.rx with fpBuf := s.rx.fpBuf ++ [EOF] }
  exact ⟨declared, hdeclared, execEof_rx_eq hend⟩

/-! ### Byte by byte and whole (R104, R123) -/

/-- A run of `UE` that meets no byte without a value ends in an error exactly inside a pair
(R104). -/
theorem ueRun_err (pending : Bool) (out a : Bytes) :
    (ueRun pending out a).err = some .invalidEscape ∨
      (ueRun pending out a).err =
        if (ueRun pending out a).pending then some .truncatedEscape else none := by
  induction a generalizing pending out with
  | nil => exact .inr rfl
  | cons b r ih =>
    cases hstep : ueStep pending b with
    | none =>
      simp only [ueRun, hstep]
      exact .inl trivial
    | some p =>
      simp only [ueRun, hstep]
      exact ih p.1 (out ++ p.2)

theorem eq_truncatedEscape_of_unescape {a : Bytes} {k : ErrorKind} (h : unescape a = .error k)
    (hk : k ≠ .invalidEscape) : k = .truncatedEscape := by
  obtain ⟨o, hrun⟩ := ueRun_error [] h
  have herr := ueRun_err false [] a
  rw [hrun] at herr
  simpa [hk] using herr

theorem ueRun_err_ne {a : Bytes} (out : Bytes) (h : unescape a ≠ .error .invalidEscape) :
    (ueRun false out a).err ≠ some .invalidEscape := by
  cases hu : unescape a with
  | ok z =>
    rw [ueRun_ok out hu]
    nofun
  | error k =>
    obtain ⟨o, hrun⟩ := ueRun_error out hu
    rw [hrun]
    exact fun hk => h (hu.trans (congrArg _ (Option.some.inj hk)))

/-- Where `UE` has run over the bytes between the markers without an `InvalidEscape`, the end of the
message is answered as `parse_frame` answers the whole (R123). -/
theorem endOutcome_of_ueRun {r : RxAgent} {inside : Bytes}
    (h : unescape inside ≠ .error .invalidEscape) (hbuf : r.fpBuf = [SOF] ++ inside ++ [EOF])
    (hpending : r.uePending = (ueRun false [] inside).pending)
    (hbody : r.fpBody = (ueRun false [] inside).out) :
    r.endOutcome = parseFrame ([SOF] ++ inside ++ [EOF]) := by
  have hmarkers := markersOk_wrap inside
  rw [RxAgent.endOutcome, parseFrame, hbuf, hpending, hbody, if_pos hmarkers, if_pos hmarkers,
    interior_wrap]
  cases hu : unescape inside with
  | ok z =>
    rw [ueRun_ok [] hu]
    rfl
  | error k =>
    obtain rfl := eq_truncatedEscape_of_unescape hu fun hk => h (hk ▸ hu)
    obtain ⟨o, hrun⟩ := ueRun_error [] hu
    rw [hrun]
    rfl

theorem RxAgent.fpRun_fpBuf (r : RxAgent) (a : Bytes) : (r.fpRun a).1.fpBuf = a := by
  obtain ⟨_, _, _, hrun⟩ := r.fpRun_eq a
  rw [hrun]

/-- Settles O36: byte by byte `UE` runs over what stands between the markers, as `FP` runs it over
the interior of the whole message. -/
theorem endMarkerReadAnswersAsFrameParse : Obligations.EndMarkerReadAnswersAsFrameParse := by
  intro s begun ended parsed inside h hbegun hended hparsed
  cases hbegun
  rw [State.receive_eq inside _ (ueRun_err_ne [] h)] at hended
  obtain ⟨declared, hend, -⟩ := RxAgent.fpEnd_eq_endOutcome
    { s.rx with
      fpBuf := [SOF] ++ inside ++ [EOF], uePending := (ueRun false [] inside).pending
      fpBody := (ueRun false [] inside).out }
  rw [endOutcome_of_ueRun h rfl rfl rfl] at hend
  cases (execEof_rx_eq hend).symm.trans hended
  cases (execFrameParse_eq _).symm.trans hparsed
  exact ⟨rfl, (RxAgent.fpRun_fpBuf _ _).symm, rfl⟩

/-! ### Whole frames and formats (R62 to R68) -/

/-- `FP`'s run over a frame the builder writes parses it (R125). -/
theorem RxAgent.fpRun_frameBytes (r : RxAgent) (tag : Byte) {a : Bytes} (h : a.length ≤ INNER_MAX) :
    r.fpRun (frameBytes tag a) =
      ({ r with
        fpBuf := frameBytes tag a, uePending := false, fpBody := frameBody tag a
        fpDeclared := half (a.length + 1) }, .ok (tag, a)) := by
  have hparse := parseFrame_frameBytes tag h
  obtain ⟨_, _, _, hrun⟩ := r.fpRun_eq (frameBytes tag a)
  exact Prod.ext (r.fpRun_of_parseFrame hparse) ((congrArg Prod.snd hrun).trans hparse)

/-- Settles O38: `FB` delivers the frame, and `FP` parses it back. -/
theorem frameCodePointBuildsAndParses : Obligations.FrameCodePointBuildsAndParses := by
  intro s tag payload h
  refine ⟨congrArg _ (s.buildAndRespond_of_le tag h),
    (congrArg Host.Outcome.next (State.answerParse_eq s _ _)).trans ?_⟩
  rw [RxAgent.fpRun_frameBytes _ tag h]
  rfl

/-- The whole next state of formatting a sub-packet whose chunk fits (R135, R136). -/
theorem State.formatAndRespond_of_le (s : State) (total index : Half) {chunk : Bytes}
    (h : chunk.length ≤ MAX_CHUNK) :
    s.formatAndRespond total index chunk =
      { s with
        tx := { s.tx with
          out := [], closed := [], spTotalLen := total, spSeqIdx := index
          spClen := BitVec.ofNat 8 chunk.length
          xsAcc := checksum (subpacketHead total index chunk)
          resp := some (Response.ok (.buffer (subpacketBytes total index chunk))) } } := by
  rw [State.formatAndRespond, if_neg (Nat.not_lt_of_le h), TxAgent.spForm_eq,
    State.respondBuffer_eq]
  rfl

/-- A column word goes out behind what the open buffer holds (R65). -/
theorem execBitmapColumn_eq (word : Half) (s : State) :
    execBitmapColumn word s = .next
      { s with tx := { s.tx with bpColWord := word, out := s.tx.out ++ u16be word } } := by
  simp only [execBitmapColumn, TxAgent.bpEmit, TxAgent.emit, List.append_assoc, u16be]
  rfl

/-- Settles O39: each format is written by its unit's run, the mode byte always fitting a frame. -/
theorem formatCodePointsWriteTheirBytes : Obligations.FormatCodePointsWriteTheirBytes := by
  refine fun s => ⟨fun total index _ h => congrArg _ (s.formatAndRespond_of_le total index h),
    fun _ _ hcap hbm => congrArg _ (s.wrapAndRespond_of_le hcap hbm), fun mode => ?_,
    fun word => execBitmapColumn_eq word s⟩
  have hfits : [mode].length ≤ INNER_MAX := Nat.le_of_ble_eq_true rfl
  exact congrArg _ (s.buildAndRespond_of_le TAG_MODE hfits)

theorem ackPayload_length_le (f : AckFields) :
    ([f.ackId] ++ u16be f.seq ++ [f.status]).length ≤ INNER_MAX := Nat.le_of_ble_eq_true rfl

/-- `decode_ack` reads the fields back from the message they make (R68, R175). -/
theorem decodeAck_ackMessage (f : AckFields) : decodeAck (ackMessage f) = .ok f := by
  rw [decodeAck, ackMessage, parseFrame_frameBytes _ (ackPayload_length_le f)]
  exact congrArg (fun seq => Except.ok (AckFields.mk f.ackType f.ackId seq f.status))
    (be16_u16be f.seq)

/-- The body of an Ack's message: length 5 and the content (R68). -/
theorem frameBody_ack (f : AckFields) :
    frameBody f.ackType ([f.ackId] ++ u16be f.seq ++ [f.status]) =
      [0x00, 0x05, f.ackType, f.ackId] ++ u16be f.seq ++ [f.status] := by
  have hlen : u16be (half 5) = [0x00, 0x05] := by decide
  rw [frameBody]
  exact congrArg (· ++ _ ++ _) hlen

/-- Settles O40: the message is a frame with four bytes behind its type, which `FP` parses. -/
theorem ackCodePointDecodesToItsFields : Obligations.AckCodePointDecodesToItsFields := by
  intro s f
  refine (congrArg Host.Outcome.next (s.decodeAndRespond_eq (ackMessage f))).trans ?_
  rw [decodeAck_ackMessage, ackMessage, RxAgent.fpRun_frameBytes _ _ (ackPayload_length_le f),
    frameBody_ack]
  rfl

/-! ## The presented raster (R42) -/

theorem rasterOf_append (pixels : List Pixel) (p : Pixel) :
    rasterOf (pixels ++ [p]) =
      (rasterOf pixels).write (rasterKey p.x.toNat p.y.toNat p.c.num) p.v :=
  List.foldl_append

/-- Triples of a raster are told apart by their keys (R42). -/
theorem rasterKey_eq_iff {x y x' y' : Half} {c c' : Channel} :
    rasterKey x.toNat y.toNat c.num = rasterKey x'.toNat y'.toNat c'.num ↔
      (x, y, c) = (x', y', c') := by
  constructor
  · intro h
    obtain ⟨hx, hy, hc⟩ := rasterKey_inj x.isLt y.isLt x'.isLt y'.isLt h
    rw [BitVec.eq_of_toNat_eq hx, BitVec.eq_of_toNat_eq hy, Channel.num_inj hc]
  · rintro ⟨⟩
    rfl

/-- Settles O50: the last write of a triple's key is what is read there. -/
theorem presentedRasterReadsBack : Obligations.PresentedRasterReadsBack := by
  refine ⟨fun _ _ _ h => step_of_served h rfl,
    fun pixels x y c => ⟨fun v => ?_, fun p hp => ?_, rfl⟩⟩
  · rw [rasterOf_append]
    exact Memory.read_write_same _ v (rasterOf_wf pixels)
  · rw [rasterOf_append]
    exact Memory.read_write_other _ p.v fun h => hp (rasterKey_eq_iff.mp h).symm

/-! ## `TP.cnt` (R156) -/

/-- Settles O58: both operations end with `TP`'s run, which leaves the count at 0. -/
theorem textPayloadEndsAtCountZero : Obligations.TextPayloadEndsAtCountZero := by
  refine ⟨fun s hcap hbm => ?_, fun s frames hok => ?_⟩
  · exact ⟨_, congrArg Host.Outcome.next (s.wrapAndRespond_of_le hcap hbm), rfl, rfl⟩
  · obtain ⟨x, row, hnext⟩ := execCmdText_of_ok hok
    exact ⟨_, hnext, rfl, rfl⟩

end Sys2Proof.Machine
